-- ==== Sys2Proof/Word.lean ====
section
/-! DEFINITION. The host word: the one unit of transfer on the host port, and the width of a command (R66, R100). -/

namespace Sys2Proof

/-- A 32-bit host word (R66, R70): what one host access moves, and the width of the command word (R100). -/
abbrev Word := BitVec 32

end Sys2Proof
end

