-- ==== Sys2Proof/Config.lean ====
section
/-! DEFINITION. What an implementation fixes and what the spec leaves open: the reference values of the two
parameters `W` and `K_RETRY` (R6, R7) and the free value of a data-register read while the block is BUSY (R71). -/

namespace Sys2Proof.Config

/-- The reference operand width (R6: "The reference value used for the vectors ... is `W = 64`"). Only `State.reset`
uses it: every meaning reads `W` from the CAP register of the state it runs on. DESIGN CHOICE, log entry 1. -/
def referenceWidth : Nat := 64

/-- The default retry factor (R7: "default `256`"). Only `State.reset` uses it. DESIGN CHOICE, log entry 1. -/
def referenceRetry : Nat := 256

/-- The 32-bit word that the k-th unspecified host read returns (R71: a read of a data register while the phase is BUSY
returns "any 32-bit value", "may differ on each read"). A FREE VALUE: it has no body that a proof can see.
Log entry 5. -/
opaque busyRead : Nat → Word

end Sys2Proof.Config
end

