-- ==== Sys2Proof/Syntax.lean ====
section
/-! DEFINITION. The command set as syntax: one constructor for each of the 13 rows of the opcode table (R107). -/

namespace Sys2Proof

/-- A command of R107. A command has no register fields (R100): its operands are the fixed registers N, A, B. `rounds` and
`len` are the two immediates, unsigned and taken as they stand (R102). ISPRIME and GENPRIME have one constructor for each
value of the AUTO bit, as the table has one row for each. -/
inductive Instr where
  /-- NOP, OP 0x00, format Z (R212). -/
  | nop
  /-- MODMUL, OP 0x01, format Z (R191). -/
  | modmul
  /-- MODEXP, OP 0x02, format Z (R194). -/
  | modexp
  /-- MODINV, OP 0x03, format Z (R184). -/
  | modinv
  /-- GCD, OP 0x04, format Z (R183). -/
  | gcd
  /-- DECOMP, OP 0x05, format Z (R131). -/
  | decomp
  /-- PREFILT, OP 0x06, format Z (R133). -/
  | prefilt
  /-- MRROUND, OP 0x07, format Z (R136). -/
  | mrround
  /-- ISPRIME with the number of rounds given: OP 0x08, AUTO = 0, format K (R138). -/
  | isprimeRounds (rounds : Nat)
  /-- ISPRIME with the default number of rounds: OP 0x08, AUTO = 1, format K (R138). -/
  | isprimeAuto
  /-- RANDODD, OP 0x09, format L (R161). -/
  | randodd (len : Nat)
  /-- GENPRIME with the number of rounds given: OP 0x0A, AUTO = 0, format G (R171). -/
  | genprimeRounds (len rounds : Nat)
  /-- GENPRIME with the default number of rounds: OP 0x0A, AUTO = 1, format G (R171). -/
  | genprimeAuto (len : Nat)
deriving DecidableEq, Repr

end Sys2Proof
end

