-- ==== Sys2Proof/WellFormed.lean ====
section
/-! DEFINITION. Which syntax terms the encoding can express: an immediate fits its field (R100, R102, R113). -/

namespace Sys2Proof

/-- ROUNDS is a 12-bit unsigned field: 0 to 4095 (R100). -/
def roundsFits (rounds : Nat) : Bool := rounds ≤ 4095

/-- LEN is a 13-bit unsigned field: 0 to 8191 (R100). A LEN outside 2 to W is still a legal encoding (R102). -/
def lenFits (len : Nat) : Bool := len ≤ 8191

/-- The command has an encoding: each of its immediates fits its field. -/
def Instr.wellFormed : Instr → Bool
  | .nop => true
  | .modmul => true
  | .modexp => true
  | .modinv => true
  | .gcd => true
  | .decomp => true
  | .prefilt => true
  | .mrround => true
  | .isprimeRounds rounds => roundsFits rounds
  | .isprimeAuto => true
  | .randodd len => lenFits len
  | .genprimeRounds len rounds => lenFits len && roundsFits rounds
  | .genprimeAuto len => lenFits len

end Sys2Proof
end

