-- ==== Sys2Proof/Decode.lean ====
section
/-! DEFINITION. The decoder of R110, total on 32-bit words and rejecting by name (R108); the encoder from the same layout
(R100, R101, R113); the match/mask table of R107 as data. -/

namespace Sys2Proof

/-- Why a word is illegal: the six conditions of R108, in its order. Every one of them is the failure IllegalCommand. -/
inductive Illegal where
  /-- R108 (1): bit 31 is 1. -/
  | bit31
  /-- R108 (2): OP is 0x0B to 0x1F. -/
  | reservedOpcode
  /-- R108 (3): the format does not use LEN and LEN is not 0. -/
  | lenNotZero
  /-- R108 (4): the format does not use ROUNDS and ROUNDS is not 0. -/
  | roundsNotZero
  /-- R108 (5): the format does not use AUTO and AUTO is 1. -/
  | autoSet
  /-- R108 (6): AUTO is 1 and ROUNDS is not 0. -/
  | autoWithRounds
deriving DecidableEq, Repr

/-- `w[lo+len-1 : lo]` as an unsigned integer (R9). -/
def bits (w : Word) (lo len : Nat) : Nat := (w.extractLsb' lo len).toNat

/-- OP = w[4:0] (R100). -/
def opOf (w : Word) : Nat := bits w 0 5

/-- AUTO = w[5] (R100). -/
def autoOf (w : Word) : Bool := w.getLsbD 5

/-- ROUNDS = w[17:6] (R100). -/
def roundsOfWord (w : Word) : Nat := bits w 6 12

/-- LEN = w[30:18] (R100). -/
def lenOf (w : Word) : Nat := bits w 18 13

/-- Format Z uses OP only (R101). -/
def decodeZ (w : Word) (i : Instr) : Except Illegal Instr :=
  if lenOf w ≠ 0 then .error .lenNotZero
  else if roundsOfWord w ≠ 0 then .error .roundsNotZero
  else if autoOf w then .error .autoSet
  else .ok i

/-- Format K uses OP, AUTO, ROUNDS (R101); with AUTO = 1 the ROUNDS field must be 0 (R103). -/
def decodeK (w : Word) : Except Illegal Instr :=
  if lenOf w ≠ 0 then .error .lenNotZero
  else if autoOf w then
    if roundsOfWord w ≠ 0 then .error .autoWithRounds else .ok .isprimeAuto
  else .ok (.isprimeRounds (roundsOfWord w))

/-- Format L uses OP, LEN (R101). -/
def decodeL (w : Word) : Except Illegal Instr :=
  if roundsOfWord w ≠ 0 then .error .roundsNotZero
  else if autoOf w then .error .autoSet
  else .ok (.randodd (lenOf w))

/-- Format G uses OP, AUTO, ROUNDS, LEN (R101); with AUTO = 1 the ROUNDS field must be 0 (R103). -/
def decodeG (w : Word) : Except Illegal Instr :=
  if autoOf w then
    if roundsOfWord w ≠ 0 then .error .autoWithRounds else .ok (.genprimeAuto (lenOf w))
  else .ok (.genprimeRounds (lenOf w) (roundsOfWord w))

/-- `decode` of R110: every 32-bit word is a command of one of the 13 rows or is illegal (R109). -/
def decode (w : Word) : Except Illegal Instr :=
  if w.getLsbD 31 then .error .bit31
  else match opOf w with
    | 0x00 => decodeZ w .nop
    | 0x01 => decodeZ w .modmul
    | 0x02 => decodeZ w .modexp
    | 0x03 => decodeZ w .modinv
    | 0x04 => decodeZ w .gcd
    | 0x05 => decodeZ w .decomp
    | 0x06 => decodeZ w .prefilt
    | 0x07 => decodeZ w .mrround
    | 0x08 => decodeK w
    | 0x09 => decodeL w
    | 0x0A => decodeG w
    | _ => .error .reservedOpcode

/-- The word is a command of one of the 13 rows (R109); every other word is illegal. -/
def legal (w : Word) : Bool := (decode w).toBool

/-- The word with the given fields and bit 31 clear (R100). -/
def layOut (op auto rounds len : Nat) : Word := BitVec.ofNat 32 (op + auto * 2 ^ 5 + rounds * 2 ^ 6 + len * 2 ^ 18)

/-- The word of a well-formed command (R113). -/
def encode : Instr → Word
  | .nop => layOut 0x00 0 0 0
  | .modmul => layOut 0x01 0 0 0
  | .modexp => layOut 0x02 0 0 0
  | .modinv => layOut 0x03 0 0 0
  | .gcd => layOut 0x04 0 0 0
  | .decomp => layOut 0x05 0 0 0
  | .prefilt => layOut 0x06 0 0 0
  | .mrround => layOut 0x07 0 0 0
  | .isprimeRounds rounds => layOut 0x08 0 rounds 0
  | .isprimeAuto => layOut 0x08 1 0 0
  | .randodd len => layOut 0x09 0 0 len
  | .genprimeRounds len rounds => layOut 0x0A 0 rounds len
  | .genprimeAuto len => layOut 0x0A 1 0 len

/-- One row of the table of R107: a word `w` selects it when `w` and `mask` is `match`. -/
structure Row where
  /-- The bits that must be as `pattern` has them. -/
  mask : Word
  /-- The row's `match`. -/
  pattern : Word
deriving DecidableEq, Repr

/-- The word selects the row (R107). -/
def Row.selects (row : Row) (w : Word) : Bool := w &&& row.mask == row.pattern

/-- The row of R107 that a command stands in. -/
def rowOf : Instr → Row
  | .nop => ⟨0xFFFFFFFF, 0x00000000⟩
  | .modmul => ⟨0xFFFFFFFF, 0x00000001⟩
  | .modexp => ⟨0xFFFFFFFF, 0x00000002⟩
  | .modinv => ⟨0xFFFFFFFF, 0x00000003⟩
  | .gcd => ⟨0xFFFFFFFF, 0x00000004⟩
  | .decomp => ⟨0xFFFFFFFF, 0x00000005⟩
  | .prefilt => ⟨0xFFFFFFFF, 0x00000006⟩
  | .mrround => ⟨0xFFFFFFFF, 0x00000007⟩
  | .isprimeRounds _ => ⟨0xFFFC003F, 0x00000008⟩
  | .isprimeAuto => ⟨0xFFFFFFFF, 0x00000028⟩
  | .randodd _ => ⟨0x8003FFFF, 0x00000009⟩
  | .genprimeRounds _ _ => ⟨0x8000003F, 0x0000000A⟩
  | .genprimeAuto _ => ⟨0x8003FFFF, 0x0000002A⟩

/-- The 13 rows of R107, in its order. -/
def opcodeTable : List Row :=
  [rowOf .nop, rowOf .modmul, rowOf .modexp, rowOf .modinv, rowOf .gcd, rowOf .decomp, rowOf .prefilt, rowOf .mrround,
   rowOf (.isprimeRounds 0), rowOf .isprimeAuto, rowOf (.randodd 0), rowOf (.genprimeRounds 0 0), rowOf (.genprimeAuto 0)]

/-- The command read from an instruction whose `nbits` bits are `w`: a command is one 32-bit word (R100) and reaches the
block as a number, with no byte order (R66). -/
def decodeTableWord (nbits w : Nat) : Option Instr :=
  match decode (BitVec.ofNat 32 (w % 2 ^ nbits)) with
  | .ok i => some i
  | .error _ => none

end Sys2Proof
end

