-- ==== Sys2Proof/Machine/State.lean ====
section
/-! DEFINITION. The state of the block (R20 to R45), the agents' pending moves, the record of events, the reset state, and
the named reasons a step can stop. Everything is plain data. -/

namespace Sys2Proof.Machine

/-- The sequencer phase, which takes the place of a program counter (R28). -/
inductive Phase where
  /-- No command outstanding, nothing to report. -/
  | idle
  /-- A command has been accepted and has not completed. -/
  | busy
  /-- The last command completed without a failure. -/
  | done
  /-- The last command ended with a failure kind. -/
  | err
deriving DecidableEq, Repr

/-- `STATUS.VERDICT` (R31). -/
inductive Verdict where
  /-- 0: the last command produced no verdict. -/
  | none
  /-- 1: "not prime". -/
  | composite
  /-- 2: "prime"; for MRROUND, this round passes; for ISPRIME and GENPRIME, probable prime. -/
  | prime
  /-- 3: PREFILT only: the fast rejection did not decide. -/
  | undecided
deriving DecidableEq, Repr

/-- The failure kinds (R220). Their codes are in Flags.lean. -/
inductive Failure where
  /-- Malformed size or range arguments (R221). -/
  | invalidInput
  /-- The retry ceiling was hit while searching for a prime (R222). -/
  | primeGenerationExhausted
  /-- Reserved for the host's key-generation software: no command raises it (R223). -/
  | noCoprimeExponentFound
  /-- A base is not strictly below the modulus (R224). -/
  | encodingOverflow
  /-- The word in CMD is illegal (R225). -/
  | illegalCommand
  /-- MODINV found a gcd other than 1 (R226). -/
  | notInvertible
  /-- An entropy answer was outside its declared range (R227). -/
  | entropyRange
deriving DecidableEq, Repr

/-- The six data registers (R20). -/
inductive DataReg where
  /-- `x[0]`: the modulus, or the number under test (R21). -/
  | N
  /-- `x[1]`: the first operand (R22). -/
  | A
  /-- `x[2]`: the second operand (R23). -/
  | B
  /-- `x[3]`: the numeric result (R24). -/
  | R
  /-- `x[4]`: the odd part of `N - 1` (R25). -/
  | T
  /-- `x[5]`: the exponent of two in `N - 1` (R25). -/
  | S
deriving DecidableEq, Repr

/-- One entropy draw as the port shows it (R42): the declared range and the answer. -/
structure Draw where
  /-- The lower end of the declared range. -/
  lo : Nat
  /-- The upper end of the declared range, inclusive. -/
  hi : Nat
  /-- The W-bit answer. -/
  value : Nat
deriving DecidableEq, Repr

/-- What the body of a command leaves at `done` (R211): the registers it assigned and its verdict. `none` for a register
means that the body did not assign it, so that it keeps its value. -/
structure Result where
  /-- The value assigned to R. -/
  r : Option Nat := .none
  /-- The values assigned to T and S. -/
  ts : Option (Nat × Nat) := .none
  /-- The verdict, NONE unless the body sets another. -/
  verdict : Verdict := .none
deriving DecidableEq, Repr

/-- The events of the block (R42), as the record `State.history` keeps them. -/
inductive PortEvent where
  /-- A CMD write was accepted, with its word. -/
  | accepted (w : Word)
  /-- A host write was ignored, with its offset and word. -/
  | ignored (off : Nat) (v : Word)
  /-- An entropy draw. -/
  | drew (d : Draw)
  /-- A command completed without a failure, with the values written. -/
  | completed (res : Result)
  /-- A command ended with a failure kind. -/
  | failed (k : Failure)
  /-- A host read returned a word. The model's own: R42 lists no reads, and the word a read returns has to stand
  somewhere. Log entry 8. -/
  | returned (off : Nat) (v : Word)
deriving DecidableEq, Repr

/-- One move of one agent of R44. The list `State.agenda` says which agent moves next. Log entry 2. -/
inductive Event where
  /-- The host reads the word at a byte offset of the register window (R71). -/
  | hostRead (off : Nat)
  /-- The host writes a word at a byte offset of the register window (R72). -/
  | hostWrite (off : Nat) (v : Word)
  /-- The sequencer takes its step, if it is enabled (R211). -/
  | sequencer
  /-- The entropy source gives one more answer (R78, R81). While an abandoned draw is unanswered, it answers that draw, and
  the block ignores it (R261). -/
  | answer (v : Nat)
  /-- The entropy source gives up a draw that reset abandoned, without answering it (R261: the block drops the request).
  Log entry 7. -/
  | withdraw
  /-- The platform asserts `rst` (R260); a command it abandons had made at most `drawn` draws (R261). Log entry 6. -/
  | rst (drawn : Nat)
deriving DecidableEq, Repr

/-- Why a step stops the machine. Only an access that cannot be expressed at the host port does; no command stops, on any
path. -/
inductive Fault where
  /-- Raised by a host access (Window.lean) whose offset is not a multiple of 4: "any other offset is refused (not a step)"
  (R69). Safe: the hardware has no such access. Log entry 9. -/
  | misalignedAccess
  /-- Raised by a host access (Window.lean) whose offset is above 0xFFC: "any other offset is refused (not a step)" (R69).
  Safe: the hardware has no such access. Log entry 9. -/
  | outsideWindow
deriving DecidableEq, Repr

/-- Why a step has no meaning. -/
inductive Refusal where
  /-- Raised by an arm of `exec` that has no meaning yet, with the row's mnemonic. No arm does. Safe: nothing is claimed of
  the instruction. -/
  | notModelled (mnemonic : String)
deriving DecidableEq, Repr

/-- The state. Up to `S` it is what the spec gives the block; `abandoned` is what R261 implies; `entropy`, `agenda`, `history`
and `reads` are the model's own. -/
structure State where
  /-- CMD: the last accepted command word (R34). -/
  cmd : Word
  /-- The sequencer phase (R28), which STATUS.BUSY, STATUS.DONE and STATUS.ERR encode. -/
  phase : Phase
  /-- STATUS.OVR, the sticky overrun flag (R32). -/
  ovr : Bool
  /-- STATUS.VERDICT (R31). -/
  verdict : Verdict
  /-- STATUS.ERRCODE (R35). -/
  errcode : BitVec 4
  /-- CTRL.IE_DONE (R36). -/
  ieDone : Bool
  /-- CTRL.IE_ERR (R36). -/
  ieErr : Bool
  /-- CAP: W in bits 15 to 0 and K_RETRY in bits 31 to 16 (R37), the parameters of the chip at hand. Nothing writes it. -/
  cap : Word
  /-- `x[0]` (R21). -/
  N : Nat
  /-- `x[1]` (R22). -/
  A : Nat
  /-- `x[2]` (R23). -/
  B : Nat
  /-- `x[3]` (R24). -/
  R : Nat
  /-- `x[4]` (R25). -/
  T : Nat
  /-- `x[5]` (R25). -/
  S : Nat
  /-- The answers the entropy source will give to the following draws, in order (R80, R114 ENT): a free input. Log entry 3. -/
  entropy : List Nat
  /-- The draws that reset has abandoned and whose answers may still arrive, to be ignored (R261). Log entry 7. -/
  abandoned : Nat
  /-- The agents' coming moves, in order: a free input. Log entry 2. -/
  agenda : List Event
  /-- The record of events (R42), newest first. Log entry 8. -/
  history : List PortEvent
  /-- How many unspecified reads have been answered: the index of the next free value. Log entry 5. -/
  reads : Nat
deriving DecidableEq, Repr

/-- The reset state of R45 for a chip whose capability register is `cap`, before any agent has moved. R45 leaves the state of the
entropy source to the platform: that it has given no answer yet is the model's choice (log entry 3). So are the other fields
that are no register: no move to come (log entry 2), an empty record (log entry 8), `reads` and `abandoned` at 0 (log entries 5
and 7). -/
def State.resetOf (cap : Word) : State :=
  { cmd := 0, phase := .idle, ovr := false, verdict := .none, errcode := 0, ieDone := false, ieErr := false, cap := cap,
    N := 0, A := 0, B := 0, R := 0, T := 0, S := 0,
    entropy := [], abandoned := 0, agenda := [], history := [], reads := 0 }

/-- CAP = {K_RETRY, W} of R37 at the reference parameters. -/
def State.referenceCap : Word := BitVec.ofNat 32 (Config.referenceRetry * 2 ^ 16 + Config.referenceWidth)

/-- The machine right after reset (R45), at the reference parameters of R6 and R7. Log entry 1. -/
def State.reset : State := State.resetOf State.referenceCap

end Sys2Proof.Machine
end

