-- ==== Sys2Proof/Machine/Arith.lean ====
section
/-! DEFINITION. The arithmetic of the commands, over unbounded integers (R9, R10): bit length, decomposition, fast rejection,
modular product and power, extended Euclid. Every loop is structural on a bound that its rule gives. Log entry 14. -/

namespace Sys2Proof.Machine

/-- `bitlen` of R10: the least `k` with `v < 2^k`. -/
def bitlen (v : Nat) : Nat := if v = 0 then 0 else Nat.log2 v + 1

/-- `floor_log2` of R10, for `v >= 1`. -/
def floorLog2 (v : Nat) : Nat := bitlen v - 1

/-- `modmul(a, b, n)` of R190: the exact product, reduced. Not used with `n = 0`. -/
def modmul (a b n : Nat) : Nat := a * b % n

/-- The loop of R195 over the exponent bits `i - 1` down to 0: square, then multiply when the bit is 1. -/
def modexpLoop (a e n : Nat) : Nat → Nat → Nat
  | 0, r => r
  | i + 1, r => if e.testBit i then modexpLoop a e n i (modmul (modmul r r n) a n) else modexpLoop a e n i (modmul r r n)

/-- `modexp(a, e, n)` of R193, by the square-and-multiply of R195. -/
def modexp (a e n : Nat) : Nat := modexpLoop a e n (bitlen e) (1 % n)

/-- The loop of R130: halve `t` while it is even. -/
def decompLoop : Nat → Nat → Nat → Nat × Nat
  | 0, t, s => (s, t)
  | fuel + 1, t, s => if t % 2 = 0 then decompLoop fuel (t / 2) (s + 1) else (s, t)

/-- `decomp(n)` of R130: the pair `(s, t)` with `n - 1 = 2^s * t` and `t` odd. Not used with `n < 2`. -/
def decomp (n : Nat) : Nat × Nat := decompLoop (n - 1) (n - 1) 0

/-- `prefilter(n)` of R132. -/
def prefilter (n : Nat) : Verdict :=
  if n < 2 then .composite
  else if n = 2 then .prime
  else if n % 2 = 0 then .composite
  else .undecided

/-- The loop of R180. `r0` and `r1` are non-negative; `y0` and `y1` are signed. -/
def egcdLoop : Nat → Nat → Nat → Int → Int → Nat × Int
  | 0, r0, _, y0, _ => (r0, y0)
  | fuel + 1, r0, r1, y0, y1 =>
    if r1 = 0 then (r0, y0) else egcdLoop fuel r1 (r0 % r1) y1 (y0 - (r0 / r1 : Nat) * y1)

/-- `egcd(p, e)` of R180: `(g, y)` with `g = gcd(p, e)` and `p*x + e*y = g` for some `x`. `r1` decreases strictly, so that
`e + 1` turns of the loop are enough. -/
def egcd (p e : Nat) : Nat × Int := egcdLoop (e + 1) p e 0 1

/-- What a round returns (R134). -/
inductive RoundResult where
  /-- The round passes. -/
  | pass
  /-- `n` is composite. -/
  | composite
deriving DecidableEq, Repr

/-- The squarings of a round (R134), at most the given number of them: `x == n - 1` passes, `x == 1` is the hard stop. -/
def squarings (n : Nat) : Nat → Nat → RoundResult
  | 0, _ => .composite
  | j + 1, x =>
    if modmul x x n = n - 1 then .pass
    else if modmul x x n = 1 then .composite
    else squarings n j (modmul x x n)

/-- `mr_round(n, a)` of R134. Used with `n` odd, `n >= 5` and `2 <= a <= n - 2`. -/
def mrRound (n a : Nat) : RoundResult :=
  let st := decomp n
  let x := modexp a st.2 n
  if x = 1 ∨ x = n - 1 then .pass else squarings n (st.1 - 1) x

end Sys2Proof.Machine
end

