-- ==== Sys2Proof/Machine/Operands.lean ====
section
/-! DEFINITION. Where a command's operands come from: the parameters in CAP (R37), the data registers by name and by limb
(R20, R61 to R64, R67), the number of rounds (R103). -/

namespace Sys2Proof.Machine

/-- `W`, the operand width in bits: CAP[15:0] (R37). -/
def State.width (s : State) : Nat := bits s.cap 0 16

/-- `K_RETRY`, the retry factor: CAP[31:16] (R37). -/
def State.kRetry (s : State) : Nat := bits s.cap 16 16

/-- `NLIMB = W / 32` (R6). -/
def State.nlimb (s : State) : Nat := s.width / 32

/-- `x[i]` (R11, R20), by name. -/
def State.reg (s : State) : DataReg → Nat
  | .N => s.N
  | .A => s.A
  | .B => s.B
  | .R => s.R
  | .T => s.T
  | .S => s.S

/-- `x[i] <- v` (R11, R20), by name. -/
def State.setReg (s : State) (x : DataReg) (v : Nat) : State :=
  match x with
  | .N => { s with N := v }
  | .A => { s with A := v }
  | .B => { s with B := v }
  | .R => { s with R := v }
  | .T => { s with T := v }
  | .S => { s with S := v }

/-- The host may write the register (R20): N, A, B only. -/
def DataReg.hostWritable : DataReg → Bool
  | .N => true
  | .A => true
  | .B => true
  | .R => false
  | .T => false
  | .S => false

/-- Limb `i` of a register value: bits `32*i+31` down to `32*i` (R62). -/
def limbOf (x i : Nat) : Word := BitVec.ofNat 32 (x / 2 ^ (32 * i))

/-- The register value with limb `i` replaced and every other limb kept (R62, R67). -/
def withLimb (x i : Nat) (v : Word) : Nat :=
  x / 2 ^ (32 * (i + 1)) * 2 ^ (32 * (i + 1)) + v.toNat * 2 ^ (32 * i) + x % 2 ^ (32 * i)

/-- What a word slot of the register window is (R61). -/
inductive Slot where
  /-- 0x000. -/
  | cmd
  /-- 0x004. -/
  | status
  /-- 0x008. -/
  | ctrl
  /-- 0x00C. -/
  | cap
  /-- Limb `i` of a data register (R62); S is one word, its limb 0 (R64). -/
  | limb (x : DataReg) (i : Nat)
  /-- Reads 0, ignores writes (R63). -/
  | reserved
deriving DecidableEq, Repr

/-- Limb `i` of a register of `nlimb` limbs, or the reserved slot above them (R62). -/
def limbSlot (nlimb : Nat) (x : DataReg) (i : Nat) : Slot := if i < nlimb then .limb x i else .reserved

/-- The register map of R61, for a byte offset inside the window. -/
def slotAt (nlimb off : Nat) : Slot :=
  if off = 0x000 then .cmd
  else if off = 0x004 then .status
  else if off = 0x008 then .ctrl
  else if off = 0x00C then .cap
  else if off < 0x200 then .reserved
  else if off < 0x400 then limbSlot nlimb .N ((off - 0x200) / 4)
  else if off < 0x600 then limbSlot nlimb .A ((off - 0x400) / 4)
  else if off < 0x800 then limbSlot nlimb .B ((off - 0x600) / 4)
  else if off < 0xA00 then limbSlot nlimb .R ((off - 0x800) / 4)
  else if off < 0xC00 then limbSlot nlimb .T ((off - 0xA00) / 4)
  else if off = 0xC00 then .limb .S 0
  else .reserved

/-- How the number of rounds is supplied (R103): AUTO = 0 with the ROUNDS field, or AUTO = 1. -/
inductive RoundCount where
  /-- AUTO = 0: the ROUNDS field. -/
  | given (k : Nat)
  /-- AUTO = 1: `floor_log2(n)`. -/
  | auto
deriving DecidableEq, Repr

/-- `rounds_of` of R103. -/
def roundsOf (rc : RoundCount) (n : Nat) : Nat :=
  match rc with
  | .given k => k
  | .auto => floorLog2 n

end Sys2Proof.Machine
end

