-- ==== Sys2Proof/Machine/Flags.lean ====
section
/-! DEFINITION. The flags and status as the host reads them: the codes of R31 and R220, the STATUS and CTRL words (R35, R36),
and the interrupt line (R229). -/

namespace Sys2Proof.Machine

/-- The value of STATUS.VERDICT (R31). -/
def Verdict.code : Verdict → BitVec 2
  | .none => 0
  | .composite => 1
  | .prime => 2
  | .undecided => 3

/-- The value a failure kind leaves in STATUS.ERRCODE (R220). -/
def Failure.code : Failure → BitVec 4
  | .invalidInput => 1
  | .primeGenerationExhausted => 2
  | .noCoprimeExponentFound => 3
  | .encodingOverflow => 4
  | .illegalCommand => 5
  | .notInvertible => 6
  | .entropyRange => 7

/-- STATUS.BUSY, STATUS.DONE and STATUS.ERR encode the phase (R28, R35). -/
def State.statusBusy (s : State) : Bool := s.phase == .busy

/-- STATUS.DONE (R35). -/
def State.statusDone (s : State) : Bool := s.phase == .done

/-- STATUS.ERR (R35). -/
def State.statusErr (s : State) : Bool := s.phase == .err

/-- The STATUS word (R35): ERRCODE in bits 11 to 8, VERDICT in 5 to 4, OVR, ERR, DONE, BUSY in 3 to 0, zeros elsewhere. -/
def State.statusWord (s : State) : Word :=
  0#20 ++ s.errcode ++ 0#2 ++ s.verdict.code ++ BitVec.ofBool s.ovr ++ BitVec.ofBool s.statusErr
    ++ BitVec.ofBool s.statusDone ++ BitVec.ofBool s.statusBusy

/-- The CTRL word (R36): IE_ERR in bit 1, IE_DONE in bit 0, zeros elsewhere. -/
def State.ctrlWord (s : State) : Word := 0#30 ++ BitVec.ofBool s.ieErr ++ BitVec.ofBool s.ieDone

/-- The interrupt output (R229), a level and a pure function of the state. -/
def State.irq (s : State) : Bool := (s.statusDone && s.ieDone) || (s.statusErr && s.ieErr)

end Sys2Proof.Machine
end

