-- ==== Sys2Proof/Machine/Ops.lean ====
section
/-! DEFINITION. The shared operations: the entropy port (R80), trap entry (R234) and the acknowledgement that stands for the
return from it (R237), acceptance (R210), completion and the execution frame (R211), overrun (R32), reset (R260). -/

namespace Sys2Proof.Machine

/-- The entropy port as the body of a command sees it: the answers still to come, and the draws made, newest first. -/
structure Port where
  /-- The answers to the coming draws. -/
  answers : List Nat
  /-- The draws this command has made, newest first. -/
  drawn : List Draw
deriving DecidableEq, Repr

/-- How a run of a body, or of a part of it, stands. -/
inductive Ran (α : Type) where
  /-- It has a value. -/
  | ok (a : α) (p : Port)
  /-- It raised a failure kind (R11). -/
  | raise (k : Failure) (p : Port)
  /-- It made a draw that has no answer yet, and holds (R81). -/
  | wait (p : Port)
deriving DecidableEq, Repr

/-- The body of a command: a run from the port at acceptance to its end. -/
abbrev Body := Port → Ran Result

/-- Run the rest after a part that has a value; a raise or a hold ends the run (R11, R232). -/
def Ran.bind {α β : Type} (x : Ran α) (f : α → Port → Ran β) : Ran β :=
  match x with
  | .ok a p => f a p
  | .raise k p => .raise k p
  | .wait p => .wait p

/-- The port as a run leaves it. -/
def Ran.port {α : Type} : Ran α → Port
  | .ok _ p => p
  | .raise _ p => p
  | .wait p => p

/-- `EntropyDraw(lo, hi)` of R80. The port carries `w` bits (R78), so that an answer is taken modulo `2^w`. Log entry 3. -/
def entropyDraw (w lo hi : Nat) (p : Port) : Ran Nat :=
  match p.answers with
  | [] => .wait p
  | a :: rest =>
    let v := a % 2 ^ w
    let p' : Port := ⟨rest, ⟨lo, hi, v⟩ :: p.drawn⟩
    if v < lo ∨ hi < v then .raise .entropyRange p' else .ok v p'

/-- Add an event to the record (R42). -/
def State.record (s : State) (e : PortEvent) : State := { s with history := e :: s.history }

/-- Draws made stay made, whether the command completes, fails (R236) or is abandoned (R261). -/
def State.spend (s : State) (p : Port) : State :=
  { s with entropy := p.answers, history := p.drawn.map PortEvent.drew ++ s.history }

/-- `done` of R211: the assigned registers are written, the verdict is set, the phase becomes DONE. -/
def State.complete (s : State) (res : Result) : State :=
  { s with
    R := res.r.getD s.R
    T := (res.ts.map Prod.fst).getD s.T
    S := (res.ts.map Prod.snd).getD s.S
    verdict := res.verdict
    phase := .done
    history := .completed res :: s.history }

/-- Trap entry (R234): the verdict becomes NONE, ERRCODE the kind's code, the phase ERR; nothing else changes. -/
def State.trapEntry (s : State) (k : Failure) : State :=
  { s with verdict := .none, errcode := k.code, phase := .err, history := .failed k :: s.history }

/-- Acknowledging a failure (R237): a written 1 in bit 2 of STATUS takes the phase from ERR to IDLE and clears ERRCODE. It
stands for the return from the trap; nothing is restored. -/
def State.acknowledge (s : State) (v : Word) : State :=
  if v.getLsbD 2 ∧ s.phase = .err then { s with errcode := 0, phase := .idle } else s

/-- Dismissing a completion (R238): a written 1 in bit 1 of STATUS takes the phase from DONE to IDLE. -/
def State.dismiss (s : State) (v : Word) : State :=
  if v.getLsbD 1 ∧ s.phase = .done then { s with phase := .idle } else s

/-- Clearing the overrun flag (R239): a written 1 in bit 3 of STATUS. -/
def State.clearOvr (s : State) (v : Word) : State :=
  if v.getLsbD 3 then { s with ovr := false } else s

/-- A host write that the phase makes the block ignore sets the overrun flag (R32, R72). -/
def State.overrun (s : State) (off : Nat) (v : Word) : State :=
  { s with ovr := true, history := .ignored off v :: s.history }

/-- Acceptance of a command word (R210), legal or not. -/
def State.accept (s : State) (w : Word) : State :=
  { s with cmd := w, verdict := .none, phase := .busy, history := .accepted w :: s.history }

/-- A write of CTRL takes effect in every phase (R36). -/
def State.writeCtrl (s : State) (v : Word) : State := { s with ieDone := v.getLsbD 0, ieErr := v.getLsbD 1 }

/-- The execution frame (R211) around the body of a command: `done` writes, a raise is trap entry, and a draw that has no
answer holds the block in BUSY with nothing changed (R81; log entry 4). -/
def runFrame (s : State) (body : Body) : Host.Outcome State Fault Refusal :=
  match body ⟨s.entropy, []⟩ with
  | .ok res p => .next ((s.spend p).complete res)
  | .raise k p => .next ((s.spend p).trapEntry k)
  | .wait _ => .next s

/-- The block's registers take the reset values of R45 (R260). CAP is constant; the entropy source, the agents' moves and the
record are outside the block. -/
def State.resetBlock (s : State) : State :=
  { s with
    cmd := 0, phase := .idle, ovr := false, verdict := .none, errcode := 0, ieDone := false, ieErr := false
    N := 0, A := 0, B := 0, R := 0, T := 0, S := 0 }

end Sys2Proof.Machine
end

