-- ==== Sys2Proof/Machine/Inverse.lean ====
section
/-! DEFINITION. Greatest common divisor and modular inverse by extended Euclid: GCD (R183), MODINV (R184). -/

namespace Sys2Proof.Machine

/-- The body of GCD (R183). -/
def gcdBody (s : State) : Body := fun p => .ok { r := some (egcd s.N s.A).1 } p

/-- GCD (R183). -/
def execGcd (s : State) : Host.Outcome State Fault Refusal := runFrame s (gcdBody s)

/-- The body of MODINV (R184), its checks in that order; the modulo is floored, so that the result is in `[0, N)` (R10). -/
def modinvBody (s : State) : Body := fun p =>
  if s.N < 2 then .raise .invalidInput p
  else if (egcd s.N s.A).1 ≠ 1 then .raise .notInvertible p
  else .ok { r := some ((egcd s.N s.A).2 % (s.N : Int)).toNat } p

/-- MODINV (R184). -/
def execModinv (s : State) : Host.Outcome State Fault Refusal := runFrame s (modinvBody s)

end Sys2Proof.Machine
end

