-- ==== Sys2Proof/Machine/Modular.lean ====
section
/-! DEFINITION. Modular multiplication and exponentiation: MODMUL (R191), MODEXP (R194). -/

namespace Sys2Proof.Machine

/-- The body of MODMUL (R191). -/
def modmulBody (s : State) : Body := fun p =>
  if s.N = 0 then .raise .invalidInput p
  else .ok { r := some (modmul s.A s.B s.N) } p

/-- MODMUL (R191). -/
def execModmul (s : State) : Host.Outcome State Fault Refusal := runFrame s (modmulBody s)

/-- The body of MODEXP (R194), its checks in that order. -/
def modexpBody (s : State) : Body := fun p =>
  if s.N = 0 then .raise .invalidInput p
  else if s.A ≥ s.N then .raise .encodingOverflow p
  else .ok { r := some (modexp s.A s.B s.N) } p

/-- MODEXP (R194). -/
def execModexp (s : State) : Host.Outcome State Fault Refusal := runFrame s (modexpBody s)

end Sys2Proof.Machine
end

