-- ==== Sys2Proof/Machine/RandomOdd.lean ====
section
/-! DEFINITION. The random odd generator: RANDODD (R160, R161). -/

namespace Sys2Proof.Machine

/-- A candidate of `len` bits from a drawn value: bits `len - 1` and 0 are forced to 1 (R160). -/
def candidateOf (len v : Nat) : Nat := v ||| 2 ^ (len - 1) ||| 1

/-- `RandomOdd(L)` of R160; both checks come before the draw. -/
def randomOdd (w len : Nat) (p : Port) : Ran Nat :=
  if len < 2 then .raise .invalidInput p
  else if len > w then .raise .invalidInput p
  else (entropyDraw w 0 (2 ^ len - 1) p).bind fun v p' => .ok (candidateOf len v) p'

/-- The body of RANDODD (R161). -/
def randoddBody (len : Nat) (s : State) : Body := fun p =>
  (randomOdd s.width len p).bind fun c p' => .ok { r := some c } p'

/-- RANDODD (R161). -/
def execRandodd (len : Nat) (s : State) : Host.Outcome State Fault Refusal := runFrame s (randoddBody len s)

end Sys2Proof.Machine
end

