-- ==== Sys2Proof/Machine/Tester.lean ====
section
/-! DEFINITION. The primality tester: DECOMP (R131), PREFILT (R133), MRROUND (R136), ISPRIME (R137, R138). -/

namespace Sys2Proof.Machine

/-- The body of DECOMP (R131). -/
def decompBody (s : State) : Body := fun p =>
  if s.N < 2 then .raise .invalidInput p
  else .ok { ts := some ((decomp s.N).2, (decomp s.N).1) } p

/-- DECOMP (R131). -/
def execDecomp (s : State) : Host.Outcome State Fault Refusal := runFrame s (decompBody s)

/-- The body of PREFILT (R133). -/
def prefiltBody (s : State) : Body := fun p => .ok { verdict := prefilter s.N } p

/-- PREFILT (R133). -/
def execPrefilt (s : State) : Host.Outcome State Fault Refusal := runFrame s (prefiltBody s)

/-- The body of MRROUND (R136): one round with the witness that the host put in A. -/
def mrroundBody (s : State) : Body := fun p =>
  if s.N < 5 ∨ s.N % 2 = 0 then .raise .invalidInput p
  else if s.A < 2 ∨ s.A > s.N - 2 then .raise .invalidInput p
  else if mrRound s.N s.A = .pass then .ok { verdict := .prime } p
  else .ok { verdict := .composite } p

/-- MRROUND (R136). -/
def execMrround (s : State) : Host.Outcome State Fault Refusal := runFrame s (mrroundBody s)

/-- The rounds of R137: each draws a witness in `[2, n - 2]`, and the first COMPOSITE ends the test (R140). -/
def runRounds (w n : Nat) : Nat → Port → Ran Verdict
  | 0, p => .ok .prime p
  | k + 1, p => (entropyDraw w 2 (n - 2) p).bind fun a p' =>
    if mrRound n a = .composite then .ok .composite p' else runRounds w n k p'

/-- `IsProbablePrime` of R137: the fast rejection, then the empty-range check, then the rounds. -/
def isProbablePrime (w n : Nat) (rc : RoundCount) (p : Port) : Ran Verdict :=
  if prefilter n ≠ .undecided then .ok (prefilter n) p
  else if n - 2 < 2 then .raise .invalidInput p
  else runRounds w n (roundsOf rc n) p

/-- The body of ISPRIME (R138). -/
def isprimeBody (rc : RoundCount) (s : State) : Body := fun p =>
  (isProbablePrime s.width s.N rc p).bind fun v p' => .ok { verdict := v } p'

/-- ISPRIME with the number of rounds given (R138). -/
def execIsprimeRounds (rounds : Nat) (s : State) : Host.Outcome State Fault Refusal :=
  runFrame s (isprimeBody (.given rounds) s)

/-- ISPRIME with the default number of rounds (R138). -/
def execIsprimeAuto (s : State) : Host.Outcome State Fault Refusal := runFrame s (isprimeBody .auto s)

end Sys2Proof.Machine
end

