-- ==== Sys2Proof/Machine/PrimeGenerator.lean ====
section
/-! DEFINITION. The prime generator: GENPRIME (R170, R171). -/

namespace Sys2Proof.Machine

/-- The trials of R171: draw a candidate, test it, return it on PRIME, retry on COMPOSITE; a failure inside a trial ends the
command. -/
def primeTrials (w len : Nat) (rc : RoundCount) : Nat → Port → Ran Result
  | 0, p => .raise .primeGenerationExhausted p
  | j + 1, p => (randomOdd w len p).bind fun c p₁ => (isProbablePrime w c rc p₁).bind fun v p₂ =>
    if v = .prime then .ok { r := some c, verdict := .prime } p₂ else primeTrials w len rc j p₂

/-- The body of GENPRIME (R171): the length check comes before any draw, and the ceiling is `K_RETRY * LEN` (R170). -/
def genprimeBody (len : Nat) (rc : RoundCount) (s : State) : Body := fun p =>
  if len < 2 ∨ len > s.width then .raise .invalidInput p
  else primeTrials s.width len rc (s.kRetry * len) p

/-- GENPRIME with the number of rounds given (R171). -/
def execGenprimeRounds (len rounds : Nat) (s : State) : Host.Outcome State Fault Refusal :=
  runFrame s (genprimeBody len (.given rounds) s)

/-- GENPRIME with the default number of rounds (R171). -/
def execGenprimeAuto (len : Nat) (s : State) : Host.Outcome State Fault Refusal :=
  runFrame s (genprimeBody len .auto s)

end Sys2Proof.Machine
end

