-- ==== Sys2Proof/Machine/System.lean ====
section
/-! DEFINITION. The command that does nothing: NOP (R212). -/

namespace Sys2Proof.Machine

/-- The body of NOP (R212). -/
def nopBody : Body := fun p => .ok {} p

/-- NOP (R212). -/
def execNop (s : State) : Host.Outcome State Fault Refusal := runFrame s nopBody

end Sys2Proof.Machine
end

