-- ==== Sys2Proof/Machine/Dispatch.lean ====
section
/-! DEFINITION. One arm per command: which meaning runs. -/

namespace Sys2Proof.Machine

/-- The meaning of a command in the execution frame (R211): one direct call per constructor. -/
def exec (i : Instr) (s : State) : Host.Outcome State Fault Refusal :=
  match i with
  | .nop => Sys2Proof.Machine.execNop s
  | .modmul => Sys2Proof.Machine.execModmul s
  | .modexp => Sys2Proof.Machine.execModexp s
  | .modinv => Sys2Proof.Machine.execModinv s
  | .gcd => Sys2Proof.Machine.execGcd s
  | .decomp => Sys2Proof.Machine.execDecomp s
  | .prefilt => Sys2Proof.Machine.execPrefilt s
  | .mrround => Sys2Proof.Machine.execMrround s
  | .isprimeRounds rounds => Sys2Proof.Machine.execIsprimeRounds rounds s
  | .isprimeAuto => Sys2Proof.Machine.execIsprimeAuto s
  | .randodd len => Sys2Proof.Machine.execRandodd len s
  | .genprimeRounds len rounds => Sys2Proof.Machine.execGenprimeRounds len rounds s
  | .genprimeAuto len => Sys2Proof.Machine.execGenprimeAuto len s

end Sys2Proof.Machine
end

