-- ==== Sys2Proof/Machine/Window.lean ====
section
/-! DEFINITION. The host port: HostRead (R71) and HostWrite (R72) over the register window (R60 to R70). -/

namespace Sys2Proof.Machine

/-- The word a register slot holds, where the spec says what a read returns (R71). -/
def State.slotWord (s : State) : Slot → Word
  | .cmd => s.cmd
  | .status => s.statusWord
  | .ctrl => s.ctrlWord
  | .cap => s.cap
  | .limb x i => limbOf (s.reg x) i
  | .reserved => 0

/-- The slot is a word of a data register. -/
def Slot.isData : Slot → Bool
  | .cmd => false
  | .status => false
  | .ctrl => false
  | .cap => false
  | .limb _ _ => true
  | .reserved => false

/-- A read of a data register while the phase is BUSY, whose value the spec leaves open (R71). -/
def State.readIsFree (s : State) (slot : Slot) : Bool := slot.isData && s.phase == .busy

/-- The word a read of a slot returns: a free value where the spec leaves it open (log entry 5). -/
def State.readValue (s : State) (slot : Slot) : Word :=
  if s.readIsFree slot then Config.busyRead s.reads else s.slotWord slot

/-- `HostRead` of R71, inside the window: the returned word is recorded and nothing of the block changes. -/
def State.readSlot (s : State) (off : Nat) (slot : Slot) : State :=
  { s with
    history := .returned off (s.readValue slot) :: s.history
    reads := if s.readIsFree slot then s.reads + 1 else s.reads }

/-- A write of a limb of a data register (R62, R72). -/
def State.writeLimb (s : State) (x : DataReg) (i : Nat) (v : Word) : State := s.setReg x (withLimb (s.reg x) i v)

/-- A write of STATUS outside BUSY: each of bits 1, 2, 3 acts by its own rule (R237 to R239). -/
def State.clearStatus (s : State) (v : Word) : State := ((s.acknowledge v).dismiss v).clearOvr v

/-- `HostWrite` of R72, inside the window. -/
def State.writeSlot (s : State) (off : Nat) (slot : Slot) (v : Word) : State :=
  match slot with
  | .ctrl => s.writeCtrl v
  | .cap => s.record (.ignored off v)
  | .reserved => s.record (.ignored off v)
  | .status => if s.phase = .busy then s.overrun off v else s.clearStatus v
  | .cmd => if s.phase = .busy ∨ s.phase = .err then s.overrun off v else s.accept v
  | .limb x i =>
    if x.hostWritable then
      if s.phase = .busy then s.overrun off v else s.writeLimb x i v
    else s.record (.ignored off v)

/-- An access that the host port can carry (R69): a multiple of 4 in `[0, 0xFFC]`. Any other offset is refused. -/
def onPort (off : Nat) (t : State) : Host.Outcome State Fault Refusal :=
  if off % 4 ≠ 0 then .fault .misalignedAccess
  else if off > 0xFFC then .fault .outsideWindow
  else .next t

/-- `HostRead(off)` (R71). -/
def hostRead (off : Nat) (s : State) : Host.Outcome State Fault Refusal :=
  onPort off (s.readSlot off (slotAt s.nlimb off))

/-- `HostWrite(off, v)` (R72). -/
def hostWrite (off : Nat) (v : Word) (s : State) : Host.Outcome State Fault Refusal :=
  onPort off (s.writeSlot off (slotAt s.nlimb off) v)

end Sys2Proof.Machine
end

