-- ==== Sys2Proof/Machine/Sequencer.lean ====
section
/-! DEFINITION. The agents' moves (R44): the sequencer's one step (R211), the entropy source, reset (R260, R261), and the
move that the agenda names. -/

namespace Sys2Proof.Machine

/-- The body that a command runs in the frame; `exec` is the frame around it. -/
def bodyOf (i : Instr) (s : State) : Body :=
  match i with
  | .nop => nopBody
  | .modmul => modmulBody s
  | .modexp => modexpBody s
  | .modinv => modinvBody s
  | .gcd => gcdBody s
  | .decomp => decompBody s
  | .prefilt => prefiltBody s
  | .mrround => mrroundBody s
  | .isprimeRounds rounds => isprimeBody (.given rounds) s
  | .isprimeAuto => isprimeBody .auto s
  | .randodd len => randoddBody len s
  | .genprimeRounds len rounds => genprimeBody len (.given rounds) s
  | .genprimeAuto len => genprimeBody len .auto s

/-- The sequencer's step, `Complete` of R211: enabled when the phase is BUSY, and otherwise nothing happens. An illegal word
in CMD is the failure IllegalCommand, with nothing read and nothing drawn (R225). -/
def sequencerStep (s : State) : Host.Outcome State Fault Refusal :=
  if s.phase = .busy then
    match decode s.cmd with
    | .ok i => exec i s
    | .error _ => .next (s.trapEntry .illegalCommand)
  else .next s

/-- The command in CMD as far as it had run when a reset abandons it: from its first draw, with at most `k` answers given
(R261; log entry 6). Nothing had run outside BUSY, or of an illegal word. -/
def abandonedRun (k : Nat) (s : State) : Option (Ran Result) :=
  if s.phase = .busy then
    match decode s.cmd with
    | .ok i => some (bodyOf i s ⟨s.entropy.take k, []⟩)
    | .error _ => none
  else none

/-- The draws that the abandoned command has made, newest first; they stay made (R261). -/
def abandonedDraws (k : Nat) (s : State) : List Draw :=
  match abandonedRun k s with
  | some run => run.port.drawn
  | none => []

/-- A draw was outstanding at the reset: the abandoned command was waiting for an answer (R261). -/
def drawOutstanding (k : Nat) (s : State) : Bool :=
  match abandonedRun k s with
  | some (.wait _) => true
  | some (.ok _ _) => false
  | some (.raise _ _) => false
  | none => false

/-- Reset (R260): a command in execution is abandoned, the draws it made stay made, the draw it waits for is abandoned (R261),
and the block takes its reset values. -/
def State.assertRst (s : State) (k : Nat) : State :=
  let ds := abandonedDraws k s
  { (s.spend ⟨s.entropy.drop ds.length, ds⟩).resetBlock with
    abandoned := if drawOutstanding k s then s.abandoned + 1 else s.abandoned }

/-- The entropy source answers (R78): an answer that arrives for an abandoned draw is ignored (R261), and any other is one more
answer for the draws to come. -/
def State.answer (s : State) (v : Nat) : State :=
  { s with
    entropy := if s.abandoned = 0 then s.entropy ++ [v] else s.entropy
    abandoned := s.abandoned - 1 }

/-- The entropy source gives up an abandoned draw (R261; log entry 7); where there is none, nothing happens. -/
def State.withdraw (s : State) : State := { s with abandoned := s.abandoned - 1 }

/-- The move of one agent (R44). -/
def perform (e : Event) (s : State) : Host.Outcome State Fault Refusal :=
  match e with
  | .hostRead off => hostRead off s
  | .hostWrite off v => hostWrite off v s
  | .sequencer => sequencerStep s
  | .answer v => .next (s.answer v)
  | .withdraw => .next s.withdraw
  | .rst k => .next (s.assertRst k)

/-- The next move: the agenda's first, or the sequencer's where the agenda is empty (log entry 2). -/
def advance (s : State) : Host.Outcome State Fault Refusal :=
  match s.agenda with
  | [] => sequencerStep s
  | e :: rest => perform e { s with agenda := rest }

/-- The state in which the command word `w` has been accepted (R210) and the sequencer moves next. ERRCODE is 0 there, as it
is in every state in which a word can be accepted. Log entry 11. -/
def State.loadCommand (s : State) (w : Word) : State :=
  { s.accept w with errcode := 0, agenda := .sequencer :: s.agenda }

end Sys2Proof.Machine
end

