-- ==== Sys2Proof/Machine/Step.lean ====
section
/-! DEFINITION. The step of the machine, and where the next command stands. -/

namespace Sys2Proof.Machine

/-- One step: one move of one agent (R44), each atomic and serialised with the others (R73). -/
def step (s : State) : Host.Outcome State Fault Refusal := advance s

/-- The state with the command word `w` stored where the next step runs it: accepted into CMD, the phase BUSY, the
sequencer's move next. Log entry 11. -/
def State.withFetchWord (s : State) (nbits w : Nat) : State := s.loadCommand (BitVec.ofNat 32 (w % 2 ^ nbits))

end Sys2Proof.Machine
end

