-- ==== Sys2Proof/Safety.lean ====
section
/-! DEFINITION. What every state of the block satisfies, in the terms the statements use: legal parameters (R6, R7), register
values within their widths (R26), STATUS fields as the phase allows them (R31, R35, R220), CMD naming the command that ran
(R29, R225). Step keeps it; states outside it are reached by no run. -/

namespace Sys2Proof.Machine

/-- The chip's parameters are legal (R6, R7): W is a multiple of 32 with 32 <= W <= 4096, and K_RETRY is at least 1. -/
abbrev State.parametersLegal (s : State) : Prop :=
  s.width % 32 = 0 ∧ 32 ≤ s.width ∧ s.width ≤ 4096 ∧ 1 ≤ s.kRetry

/-- Every data register holds a value within its width; S is below W (R20, R26). -/
abbrev State.registersFit (s : State) : Prop :=
  s.N < 2 ^ s.width ∧ s.A < 2 ^ s.width ∧ s.B < 2 ^ s.width ∧ s.R < 2 ^ s.width ∧ s.T < 2 ^ s.width ∧ s.S < s.width

/-- ERRCODE is 0 outside ERR, and in ERR a code that some command produces (R35, R220, R223); VERDICT is NONE from
acceptance on and after a failure (R31). -/
abbrev State.statusFits (s : State) : Prop :=
  (s.phase ≠ .err → s.errcode = 0) ∧ (s.phase = .err → s.errcode ∈ [1, 2, 4, 5, 6, 7]) ∧
  (s.phase = .busy ∨ s.phase = .err → s.verdict = .none)

/-- CMD names the command that ran (R29): after a completion a legal word, and after a failure an illegal word exactly when
the failure is IllegalCommand (R225). -/
abbrev State.cmdNamesOutcome (s : State) : Prop :=
  (s.phase = .done → legal s.cmd = true) ∧ (s.phase = .err → (s.errcode = 5 ↔ legal s.cmd = false))

/-- The invariant of the block. -/
abbrev State.wf (s : State) : Prop := s.parametersLegal ∧ s.registersFit ∧ s.statusFits ∧ s.cmdNamesOutcome

end Sys2Proof.Machine
end

