-- ==== Sys2Proof/Certificates/Slice0/Obligations.lean ====
section
/-! DEFINITION. The statements for the provers, from the numbered rules of spec/. They are about the machine, for every state
and so for every legal W and K_RETRY (CAP is a field of the state), every entropy script and every order of the agents'
moves. -/

open Sys2Proof Sys2Proof.Machine

/-! Words the statements share. -/

namespace Sys2Proof.Slice0

/-- `i` is ISPRIME running `k` rounds on `n` (R103, R138): the ROUNDS field, or `floor_log2(n)`. -/
def runsIsprime (i : Instr) (n k : Nat) : Prop := i = .isprimeRounds k ∨ (i = .isprimeAuto ∧ k = bitlen n - 1)

/-- `i` is GENPRIME of length `len` running `k` rounds per candidate (R103, R171): the ROUNDS field, or `len - 1`. -/
def runsGenprime (i : Instr) (len k : Nat) : Prop := i = .genprimeRounds len k ∨ (i = .genprimeAuto len ∧ k = len - 1)

/-- `i` is a command that reads neither the entropy port nor CMD's immediates (R82): it makes no draw. -/
def drawsNothing (i : Instr) : Prop :=
  i = .nop ∨ i = .modmul ∨ i = .modexp ∨ i = .modinv ∨ i = .gcd ∨ i = .decomp ∨ i = .prefilt ∨ i = .mrround

/-- The most draws a command can make (R82, R171). -/
def mostDraws (i : Instr) (s : State) : Nat :=
  match i with
  | .isprimeRounds rounds => rounds
  | .isprimeAuto => bitlen s.N - 1
  | .randodd _ => 1
  | .genprimeRounds len rounds => s.kRetry * len * (1 + rounds)
  | .genprimeAuto len => s.kRetry * len * (1 + (len - 1))
  | _ => 0

/-- The port carries W bits (R78): what an answer of the entropy script reads as. -/
def answered (s : State) (a : Nat) : Nat := a % 2 ^ s.width

/-- Every answer of the list, as a witness for `n`, is in `[2, n - 2]` and its round passes (R137). -/
def allPass (s : State) (n : Nat) (ws : List Nat) : Prop :=
  ∀ a ∈ ws, 2 ≤ answered s a ∧ answered s a ≤ n - 2 ∧ mrRound n (answered s a) = .pass

/-- The draws of range `[lo, hi]` that the answers make, in order. -/
def drawsOf (s : State) (lo hi : Nat) (ws : List Nat) : List Draw := ws.map fun a => ⟨lo, hi, answered s a⟩

/-- The events of a command that made the draws `ds`, in order, and ended with `last`: newest first. -/
def eventsOf (ds : List Draw) (last : PortEvent) : List PortEvent := last :: ds.reverse.map .drew

/-- The candidate of `len` bits from a drawn value (R160): bits `len - 1` and 0 are forced to 1. -/
def candidate (s : State) (len v : Nat) : Nat := answered s v ||| 2 ^ (len - 1) ||| 1

/-- The draws of one trial of GENPRIME (R171): the candidate, then its witnesses. -/
def trialDraws (s : State) (len : Nat) : List Nat → List Draw
  | [] => []
  | v :: ws => ⟨0, 2 ^ len - 1, answered s v⟩ :: drawsOf s 2 (candidate s len v - 2) ws

/-- The answers of a trial whose candidate passes all `k` rounds (R171). -/
def acceptedTrial (s : State) (len k : Nat) (block : List Nat) : Prop :=
  ∃ v ws, block = v :: ws ∧ answered s v < 2 ^ len ∧ ws.length = k ∧ allPass s (candidate s len v) ws

/-- The answers of a trial whose candidate is rejected by the last of at most `k` rounds (R171, R140). -/
def rejectedTrial (s : State) (len k : Nat) (block : List Nat) : Prop :=
  ∃ v ws a, block = v :: (ws ++ [a]) ∧ answered s v < 2 ^ len ∧ ws.length < k ∧ allPass s (candidate s len v) ws ∧
    2 ≤ answered s a ∧ answered s a ≤ candidate s len v - 2 ∧ mrRound (candidate s len v) (answered s a) = .composite

/-- The script runs out at a draw of the command (R81): at a witness of ISPRIME after rounds that all pass; at the one draw of
RANDODD; and at a candidate of GENPRIME after rejected trials, or at a witness after rounds of its candidate that all pass. -/
def runsDry (i : Instr) (s : State) : Prop :=
  (∃ k, runsIsprime i s.N k ∧ 5 ≤ s.N ∧ s.N % 2 = 1 ∧ s.entropy.length < k ∧ allPass s s.N s.entropy) ∨
  (∃ len, i = .randodd len ∧ 2 ≤ len ∧ len ≤ s.width ∧ s.entropy = []) ∨
  ∃ (len k : Nat) (blocks : List (List Nat)), runsGenprime i len k ∧ 2 ≤ len ∧ len ≤ s.width ∧ blocks.length < s.kRetry * len ∧
    (∀ block ∈ blocks, rejectedTrial s len k block) ∧
    (s.entropy = blocks.flatten ∨ ∃ v ws, 3 ≤ len ∧ s.entropy = blocks.flatten ++ v :: ws ∧ answered s v < 2 ^ len ∧
      ws.length < k ∧ allPass s (candidate s len v) ws)

/-- The offsets of the slots a host may write as limbs of N, A, B (R61, R62): limb `i` of the region at `base`. -/
def operandLimb (s : State) (x : DataReg) (i off : Nat) : Prop :=
  i < s.width / 32 ∧ ((x = .N ∧ off = 0x200 + 4 * i) ∨ (x = .A ∧ off = 0x400 + 4 * i) ∨ (x = .B ∧ off = 0x600 + 4 * i))

/-- The offsets of the limbs of the result registers (R61, R62, R64). -/
def resultLimb (s : State) (x : DataReg) (i off : Nat) : Prop :=
  (i < s.width / 32 ∧ ((x = .R ∧ off = 0x800 + 4 * i) ∨ (x = .T ∧ off = 0xA00 + 4 * i))) ∨ (x = .S ∧ i = 0 ∧ off = 0xC00)

/-- The reserved word offsets (R61, R62, R63): between CAP and N, the slots above the used limbs, and above S. -/
def reservedOffset (s : State) (off : Nat) : Prop :=
  off % 4 = 0 ∧ ((0x010 ≤ off ∧ off ≤ 0x1FC) ∨ (0xC04 ≤ off ∧ off ≤ 0xFFC) ∨
    (0x200 ≤ off ∧ off ≤ 0xBFC ∧ s.width / 32 ≤ off % 0x200 / 4))

/-- The writes that the phase makes the block ignore (R72): in BUSY, those of CMD, STATUS and the operands; in ERR, that of
CMD. -/
def writeIgnoredByPhase (s : State) (off : Nat) : Prop :=
  (s.phase = .busy ∧ (off = 0x000 ∨ off = 0x004 ∨ ∃ x i, operandLimb s x i off)) ∨ (s.phase = .err ∧ off = 0x000)

end Sys2Proof.Slice0

open Sys2Proof.Slice0

/-! ## Encoding -/

/-- R110 and the encoder: decoding the word of any well-formed command gives the command back, every immediate at every value
its field admits. -/
def Obligations.DecodeOfEncodeIsTheCommand : Prop :=
  ∀ i : Instr, i.wellFormed = true → decode (encode i) = .ok i

/-- R109: each legal word has one meaning, and it is the word of that command. -/
def Obligations.EncodeOfDecodeIsTheWord : Prop :=
  ∀ (w : Word) (i : Instr), decode w = .ok i → i.wellFormed = true ∧ encode i = w

/-- R107, R110: no word matches two rows of the match/mask table, and decode agrees with the table on every word. -/
def Obligations.DecodeAgreesWithTheOpcodeTable : Prop :=
  (opcodeTable.length = 13 ∧ opcodeTable.Pairwise fun p q => ∀ w : Word, ¬ (p.selects w = true ∧ q.selects w = true)) ∧
  ∀ w : Word, (∀ i, decode w = .ok i → rowOf i ∈ opcodeTable ∧ (rowOf i).selects w = true) ∧
    (legal w = true ↔ ∃ row ∈ opcodeTable, row.selects w = true)

/-- R108: the six conditions, and no other, make a word illegal. -/
def Obligations.IllegalWordsAreTheSixConditions : Prop :=
  ∀ w : Word, legal w = false ↔
    (w.getLsbD 31 = true
     ∨ (0x0B ≤ opOf w ∧ opOf w ≤ 0x1F)
     ∨ ((opOf w ≤ 0x08) ∧ lenOf w ≠ 0)
     ∨ ((opOf w ≤ 0x07 ∨ opOf w = 0x09) ∧ roundsOfWord w ≠ 0)
     ∨ ((opOf w ≤ 0x07 ∨ opOf w = 0x09) ∧ autoOf w = true)
     ∨ ((opOf w = 0x08 ∨ opOf w = 0x0A) ∧ autoOf w = true ∧ roundsOfWord w ≠ 0))

/-- R113, R107: words written out from the spec's encoding decode to the commands they stand for. -/
def Obligations.SpecWordsDecodeToTheirCommands : Prop :=
  decode 0x00000000#32 = .ok .nop ∧ decode 0x00000001#32 = .ok .modmul ∧ decode 0x00000002#32 = .ok .modexp ∧
  decode 0x00000003#32 = .ok .modinv ∧ decode 0x00000004#32 = .ok .gcd ∧ decode 0x00000005#32 = .ok .decomp ∧
  decode 0x00000006#32 = .ok .prefilt ∧ decode 0x00000007#32 = .ok .mrround ∧
  decode 0x00000148#32 = .ok (.isprimeRounds 5) ∧ decode 0x00000028#32 = .ok .isprimeAuto ∧
  decode 0x00200009#32 = .ok (.randodd 8) ∧ decode 0x0020014A#32 = .ok (.genprimeRounds 8 5) ∧
  decode 0x0010002A#32 = .ok (.genprimeAuto 4)

/-! ## The commands -/

/-- R212: NOP writes the verdict NONE and nothing else, cannot fail, and raises `irq` if IE_DONE is 1. -/
def Obligations.NopCompletesAndTouchesNothing : Prop :=
  decode 0x00000000#32 = .ok .nop ∧
  ∀ s : State, ∃ t, exec .nop s = .next t ∧ (s.ieDone = true → t.irq = true) ∧
    t = { s with verdict := .none, phase := .done, history := .completed {} :: s.history }

/-- R190, R191: MODMUL leaves the exact product reduced modulo N, or fails when N = 0. -/
def Obligations.ModmulLeavesTheReducedProduct : Prop :=
  decode 0x00000001#32 = .ok .modmul ∧
  ∀ s : State,
    (s.N = 0 → exec .modmul s = .next (s.trapEntry .invalidInput)) ∧
    (s.N ≠ 0 → exec .modmul s = .next
      { s with R := s.A * s.B % s.N, verdict := .none, phase := .done,
               history := .completed { r := some (s.A * s.B % s.N) } :: s.history })

/-- R193, R194: MODEXP leaves `A ^ B mod N`, and its two failures in their order. -/
def Obligations.ModexpLeavesThePower : Prop :=
  decode 0x00000002#32 = .ok .modexp ∧
  ∀ s : State,
    (s.N = 0 → exec .modexp s = .next (s.trapEntry .invalidInput)) ∧
    (s.N ≠ 0 → s.A ≥ s.N → exec .modexp s = .next (s.trapEntry .encodingOverflow)) ∧
    (s.N ≠ 0 → s.A < s.N → exec .modexp s = .next
      { s with R := s.A ^ s.B % s.N, verdict := .none, phase := .done,
               history := .completed { r := some (s.A ^ s.B % s.N) } :: s.history })

/-- R183: GCD leaves `gcd(N, A)` for every N and A. -/
def Obligations.GcdLeavesTheGreatestCommonDivisor : Prop :=
  decode 0x00000004#32 = .ok .gcd ∧
  ∀ s : State, exec .gcd s = .next
    { s with R := Nat.gcd s.N s.A, verdict := .none, phase := .done,
             history := .completed { r := some (Nat.gcd s.N s.A) } :: s.history }

/-- R181, R184: MODINV leaves the one `d` in `[0, N)` with `(d * A) mod N = 1`, and its two failures in their order. -/
def Obligations.ModinvLeavesTheUniqueInverse : Prop :=
  decode 0x00000003#32 = .ok .modinv ∧
  ∀ s : State,
    (s.N < 2 → exec .modinv s = .next (s.trapEntry .invalidInput)) ∧
    (2 ≤ s.N → Nat.gcd s.N s.A ≠ 1 → exec .modinv s = .next (s.trapEntry .notInvertible)) ∧
    (2 ≤ s.N → Nat.gcd s.N s.A = 1 → ∃ d, d < s.N ∧ d * s.A % s.N = 1 ∧
      (∀ d', d' < s.N → d' * s.A % s.N = 1 → d' = d) ∧
      exec .modinv s = .next
        { s with R := d, verdict := .none, phase := .done, history := .completed { r := some d } :: s.history })

/-- R180: extended Euclid returns the gcd and a Bézout coefficient. -/
def Obligations.EgcdReturnsABezoutCoefficient : Prop :=
  ∀ p e : Nat, (egcd p e).1 = Nat.gcd p e ∧ ∃ x : Int, (p : Int) * x + (e : Int) * (egcd p e).2 = ((egcd p e).1 : Int)

/-- R130, R131: DECOMP leaves the decomposition `N - 1 = 2^S * T`, T odd, or fails when N < 2. -/
def Obligations.DecompLeavesTheDecomposition : Prop :=
  decode 0x00000005#32 = .ok .decomp ∧
  ∀ s : State,
    (s.N < 2 → exec .decomp s = .next (s.trapEntry .invalidInput)) ∧
    (∀ e t, 2 ≤ s.N → s.N - 1 = 2 ^ e * t → t % 2 = 1 → exec .decomp s = .next
      { s with T := t, S := e, verdict := .none, phase := .done, history := .completed { ts := some (t, e) } :: s.history }) ∧
    (2 ≤ s.N → ∃ e t, s.N - 1 = 2 ^ e * t ∧ t % 2 = 1)

/-- R132, R133: PREFILT leaves the verdict of the fast rejection and cannot fail. -/
def Obligations.PrefiltLeavesTheFastRejection : Prop :=
  decode 0x00000006#32 = .ok .prefilt ∧
  ∀ s : State, ∃ v, exec .prefilt s = .next
      { s with verdict := v, phase := .done, history := .completed { verdict := v } :: s.history } ∧
    (s.N < 2 → v = .composite) ∧ (s.N = 2 → v = .prime) ∧ (2 < s.N → s.N % 2 = 0 → v = .composite) ∧
    (2 < s.N → s.N % 2 = 1 → v = .undecided)

/-- R136: MRROUND leaves the verdict of one round with the witness in A, and fails outside its domain. -/
def Obligations.MrroundLeavesTheRoundsVerdict : Prop :=
  decode 0x00000007#32 = .ok .mrround ∧
  ∀ s : State,
    ((s.N < 5 ∨ s.N % 2 = 0) → exec .mrround s = .next (s.trapEntry .invalidInput)) ∧
    ((s.A < 2 ∨ s.A > s.N - 2) → exec .mrround s = .next (s.trapEntry .invalidInput)) ∧
    (5 ≤ s.N → s.N % 2 = 1 → 2 ≤ s.A → s.A ≤ s.N - 2 → ∃ v, exec .mrround s = .next
        { s with verdict := v, phase := .done, history := .completed { verdict := v } :: s.history } ∧
      (mrRound s.N s.A = .pass → v = .prime) ∧ (mrRound s.N s.A = .composite → v = .composite))

/-- R134: a round passes exactly when `a^t` is 1 or some `a^(2^j * t)` with `j < s` is `n - 1`, modulo n. The rule's loop,
with its early exits and its hard stop, computes that. -/
def Obligations.RoundPassesExactlyOnStrongPseudoprimeWitnesses : Prop :=
  ∀ n a e t : Nat, 5 ≤ n → n % 2 = 1 → n - 1 = 2 ^ e * t → t % 2 = 1 →
    (mrRound n a = .pass ↔ (a ^ t % n = 1 ∨ ∃ j, j < e ∧ a ^ (2 ^ j * t) % n = n - 1))

/-- R137, R138: where the fast rejection decides, ISPRIME gives its verdict with no draw; N = 3 fails before any draw,
whatever the round count. -/
def Obligations.IsprimeDecidesWithoutDrawing : Prop :=
  ∀ (i : Instr) (k : Nat) (s : State), runsIsprime i s.N k →
    (s.N < 2 → exec i s = .next
      { s with verdict := .composite, phase := .done, history := .completed { verdict := .composite } :: s.history }) ∧
    (s.N = 2 → exec i s = .next
      { s with verdict := .prime, phase := .done, history := .completed { verdict := .prime } :: s.history }) ∧
    (2 < s.N → s.N % 2 = 0 → exec i s = .next
      { s with verdict := .composite, phase := .done, history := .completed { verdict := .composite } :: s.history }) ∧
    (s.N = 3 → exec i s = .next (s.trapEntry .invalidInput))

/-- R137, R138: when all `k` witnesses pass, ISPRIME completes with PRIME after exactly `k` draws of range `[2, N - 2]`. -/
def Obligations.IsprimeReportsPrimeWhenEveryRoundPasses : Prop :=
  ∀ (i : Instr) (k : Nat) (s : State) (ws rest : List Nat), runsIsprime i s.N k → 5 ≤ s.N → s.N % 2 = 1 →
    s.entropy = ws ++ rest → ws.length = k → allPass s s.N ws →
    exec i s = .next
      { s with verdict := .prime, phase := .done, entropy := rest,
               history := eventsOf (drawsOf s 2 (s.N - 2) ws) (.completed { verdict := .prime }) ++ s.history }

/-- R137, R138, R140: the first composite round ends the test, with no further draw. -/
def Obligations.IsprimeStopsAtTheFirstCompositeRound : Prop :=
  ∀ (i : Instr) (k : Nat) (s : State) (ws : List Nat) (a : Nat) (rest : List Nat), runsIsprime i s.N k → 5 ≤ s.N →
    s.N % 2 = 1 → s.entropy = ws ++ a :: rest → ws.length < k → allPass s s.N ws →
    2 ≤ answered s a → answered s a ≤ s.N - 2 → mrRound s.N (answered s a) = .composite →
    exec i s = .next
      { s with verdict := .composite, phase := .done, entropy := rest,
               history := eventsOf (drawsOf s 2 (s.N - 2) (ws ++ [a])) (.completed { verdict := .composite }) ++ s.history }

/-- R138, R227, R236: an answer outside `[2, N - 2]` is the failure EntropyRange, and the draws before it stay made. -/
def Obligations.IsprimeFailsOnAnOutOfRangeWitness : Prop :=
  ∀ (i : Instr) (k : Nat) (s : State) (ws : List Nat) (a : Nat) (rest : List Nat), runsIsprime i s.N k → 5 ≤ s.N →
    s.N % 2 = 1 → s.entropy = ws ++ a :: rest → ws.length < k → allPass s s.N ws →
    (answered s a < 2 ∨ s.N - 2 < answered s a) →
    exec i s = .next
      { s with verdict := .none, errcode := 7, phase := .err, entropy := rest,
               history := eventsOf (drawsOf s 2 (s.N - 2) (ws ++ [a])) (.failed .entropyRange) ++ s.history }

/-- ISPRIME reports a prime N >= 5 as PRIME for every in-range answer sequence of the length it draws: a consequence of the
round's definition. The spec marks this sentence of R139 as general knowledge, not the source's (93 G4). -/
def Obligations.IsprimeReportsEveryPrimeAsPrime : Prop :=
  ∀ (i : Instr) (k : Nat) (s : State), runsIsprime i s.N k → Nat.Prime s.N → 5 ≤ s.N → k ≤ s.entropy.length →
    (∀ a ∈ s.entropy.take k, 2 ≤ answered s a ∧ answered s a ≤ s.N - 2) →
    ∃ t, exec i s = .next t ∧ t.phase = .done ∧ t.verdict = .prime ∧ t.entropy = s.entropy.drop k

/-- R160, R161: RANDODD with `2 <= LEN <= W` makes one draw of range `[0, 2^LEN - 1]` and leaves the candidate, or fails
on an answer outside the range; with any other LEN it fails before the draw. -/
def Obligations.RandoddLeavesTheForcedCandidate : Prop :=
  ∀ (len : Nat) (s : State),
    ((len < 2 ∨ s.width < len) → exec (.randodd len) s = .next (s.trapEntry .invalidInput)) ∧
    (∀ (v : Nat) (rest : List Nat), 2 ≤ len → len ≤ s.width → s.entropy = v :: rest →
      (answered s v ≤ 2 ^ len - 1 → exec (.randodd len) s = .next
        { s with R := candidate s len v, verdict := .none, phase := .done, entropy := rest,
                 history := .completed { r := some (candidate s len v) } :: .drew ⟨0, 2 ^ len - 1, answered s v⟩ :: s.history }) ∧
      (2 ^ len - 1 < answered s v → exec (.randodd len) s = .next
        { s with verdict := .none, errcode := 7, phase := .err, entropy := rest,
                 history := .failed .entropyRange :: .drew ⟨0, 2 ^ len - 1, answered s v⟩ :: s.history }))

/-- R160: a candidate has exactly `len` bits and is odd; its bits `len - 2` down to 1 are those of the drawn value. -/
def Obligations.CandidatesHaveExactLengthAndAreOdd : Prop :=
  ∀ (len v : Nat), 2 ≤ len → v < 2 ^ len →
    bitlen (candidateOf len v) = len ∧ candidateOf len v % 2 = 1 ∧
    2 ^ (len - 1) + 1 ≤ candidateOf len v ∧ candidateOf len v ≤ 2 ^ len - 1 ∧
    ∀ j, 1 ≤ j → j ≤ len - 2 → (candidateOf len v).testBit j = v.testBit j

/-- R171: GENPRIME with LEN below 2 or above W fails before any draw, and with LEN = 2 after one in-range draw. -/
def Obligations.GenprimeRejectsBadLengths : Prop :=
  ∀ (i : Instr) (len k : Nat) (s : State), runsGenprime i len k →
    ((len < 2 ∨ s.width < len) → exec i s = .next (s.trapEntry .invalidInput)) ∧
    (∀ v rest, len = 2 → 2 ≤ s.width → 1 ≤ s.kRetry → s.entropy = v :: rest → answered s v ≤ 3 →
      exec i s = .next
        { s with verdict := .none, errcode := 1, phase := .err, entropy := rest,
                 history := .failed .invalidInput :: .drew ⟨0, 3, answered s v⟩ :: s.history })

/-- R171: after fewer than `K_RETRY * LEN` rejected trials, the first accepted candidate is the result. The draws are those
of the trials, in their order, and no other. -/
def Obligations.GenprimeReturnsTheFirstAcceptedCandidate : Prop :=
  ∀ (i : Instr) (len k : Nat) (s : State) (blocks : List (List Nat)) (v : Nat) (ws rest : List Nat),
    runsGenprime i len k → 3 ≤ len → len ≤ s.width → blocks.length < s.kRetry * len →
    (∀ block ∈ blocks, rejectedTrial s len k block) → acceptedTrial s len k (v :: ws) →
    s.entropy = blocks.flatten ++ (v :: ws) ++ rest →
    exec i s = .next
      { s with R := candidate s len v, verdict := .prime, phase := .done, entropy := rest,
               history := eventsOf ((blocks ++ [v :: ws]).flatMap (trialDraws s len))
                 (.completed { r := some (candidate s len v), verdict := .prime }) ++ s.history }

/-- R170, R171, R222: when all `K_RETRY * LEN` candidates are rejected, the failure is PrimeGenerationExhausted. -/
def Obligations.GenprimeIsExhaustedAfterItsCeiling : Prop :=
  ∀ (i : Instr) (len k : Nat) (s : State) (blocks : List (List Nat)) (rest : List Nat),
    runsGenprime i len k → 3 ≤ len → len ≤ s.width → blocks.length = s.kRetry * len →
    (∀ block ∈ blocks, rejectedTrial s len k block) → s.entropy = blocks.flatten ++ rest →
    exec i s = .next
      { s with verdict := .none, errcode := 2, phase := .err, entropy := rest,
               history := eventsOf (blocks.flatMap (trialDraws s len)) (.failed .primeGenerationExhausted) ++ s.history }

/-- R171, R227, R236: after rejected trials, an out-of-range answer, for the candidate or for a witness, is the failure
EntropyRange at that draw; the draws before it stay made. With LEN = 2 no trial is rejected and no witness drawn, so that only
the first draw can be out of range. -/
def Obligations.GenprimeFailsOnAnOutOfRangeAnswer : Prop :=
  ∀ (i : Instr) (len k : Nat) (s : State) (blocks : List (List Nat)) (v : Nat) (rest : List Nat),
    runsGenprime i len k → 2 ≤ len → len ≤ s.width → blocks.length < s.kRetry * len →
    (∀ block ∈ blocks, rejectedTrial s len k block) →
    (s.entropy = blocks.flatten ++ v :: rest → 2 ^ len ≤ answered s v → exec i s = .next
      { s with verdict := .none, errcode := 7, phase := .err, entropy := rest,
               history := eventsOf ((blocks ++ [[v]]).flatMap (trialDraws s len)) (.failed .entropyRange) ++ s.history }) ∧
    (∀ ws a, 3 ≤ len → s.entropy = blocks.flatten ++ v :: (ws ++ [a]) ++ rest → answered s v < 2 ^ len → ws.length < k →
      allPass s (candidate s len v) ws → (answered s a < 2 ∨ candidate s len v - 2 < answered s a) → exec i s = .next
      { s with verdict := .none, errcode := 7, phase := .err, entropy := rest,
               history := eventsOf ((blocks ++ [v :: (ws ++ [a])]).flatMap (trialDraws s len)) (.failed .entropyRange)
                 ++ s.history })

/-- R172: whatever the entropy script, a GENPRIME that reaches DONE leaves in R an odd value of exactly LEN bits, and the last
`k` answers it consumed are in-range witnesses whose rounds on R all pass. -/
def Obligations.GenprimeResultsHaveTheirShape : Prop :=
  ∀ (i : Instr) (len k : Nat) (s t : State), runsGenprime i len k → s.phase = .busy → exec i s = .next t →
    t.phase = .done →
    t.verdict = .prime ∧ bitlen t.R = len ∧ t.R % 2 = 1 ∧
    ∃ before ws, s.entropy = before ++ ws ++ t.entropy ∧ ws.length = k ∧ allPass s t.R ws

/-- R236: a GENPRIME that ends in PrimeGenerationExhausted has made between `2 * K_RETRY * LEN` and
`K_RETRY * LEN * (1 + k)` draws, and with `k = 0` it cannot. -/
def Obligations.ExhaustedGenprimeDrawsWithinItsBounds : Prop :=
  ∀ (i : Instr) (len k : Nat) (s t : State), runsGenprime i len k → 1 ≤ s.kRetry → s.phase = .busy →
    exec i s = .next t → t.phase = .err → t.errcode = 2 →
    1 ≤ k ∧ 2 * (s.kRetry * len) ≤ s.entropy.length - t.entropy.length ∧
    s.entropy.length - t.entropy.length ≤ s.kRetry * len * (1 + k)

/-! ## The frame of a command -/

/-- R27, R29, R32, R36, R37: no command changes N, A, B, CMD, CTRL, OVR or CAP; every command answers a next state. -/
def Obligations.CommandsKeepOperandsAndControl : Prop :=
  ∀ (i : Instr) (s : State), ∃ t, exec i s = .next t ∧
    t.N = s.N ∧ t.A = s.A ∧ t.B = s.B ∧ t.cmd = s.cmd ∧ t.ieDone = s.ieDone ∧ t.ieErr = s.ieErr ∧ t.ovr = s.ovr ∧
    t.cap = s.cap ∧ t.abandoned = s.abandoned ∧ t.agenda = s.agenda ∧ t.reads = s.reads

/-- R33: what each command writes at completion: R by six of them, T and S by DECOMP alone, and the verdict by every one. R24
and R25 say the same of R, T and S whatever way the command ends. -/
def Obligations.ResultRegistersHaveTheirWriters : Prop :=
  ∀ (i : Instr) (s t : State), exec i s = .next t →
    (t.R ≠ s.R → i = .modmul ∨ i = .modexp ∨ i = .modinv ∨ i = .gcd ∨ (∃ len, i = .randodd len) ∨
      (∃ len k, i = .genprimeRounds len k) ∨ (∃ len, i = .genprimeAuto len)) ∧
    ((t.T ≠ s.T ∨ t.S ≠ s.S) → i = .decomp) ∧
    (s.phase = .busy → t.phase = .done →
      ((i = .nop ∨ i = .modmul ∨ i = .modexp ∨ i = .modinv ∨ i = .gcd ∨ i = .decomp ∨ ∃ len, i = .randodd len) →
        t.verdict = .none) ∧
      (i = .prefilt → t.verdict = .composite ∨ t.verdict = .prime ∨ t.verdict = .undecided) ∧
      ((i = .mrround ∨ (∃ k, i = .isprimeRounds k) ∨ i = .isprimeAuto) → t.verdict = .prime ∨ t.verdict = .composite) ∧
      (((∃ len k, i = .genprimeRounds len k) ∨ ∃ len, i = .genprimeAuto len) → t.verdict = .prime))

/-- R24, R234: a command that ends with a failure changes none of R, T, S and leaves the verdict NONE. -/
def Obligations.FailedCommandsLeaveTheDataState : Prop :=
  ∀ (i : Instr) (s t : State), s.phase = .busy → exec i s = .next t → t.phase = .err →
    t.R = s.R ∧ t.T = s.T ∧ t.S = s.S ∧ t.N = s.N ∧ t.A = s.A ∧ t.B = s.B ∧ t.verdict = .none ∧
    ∃ f : Failure, t.errcode = f.code ∧ f ≠ .noCoprimeExponentFound ∧ f ≠ .illegalCommand ∧
      (i = .nop ∨ i = .gcd ∨ i = .prefilt → False)

/-- R21, R22, R23: the commands that do not read N, A or B do not depend on it: changing it before the command is changing it
after the command. -/
def Obligations.CommandsIgnoreTheOperandsTheyDoNotRead : Prop :=
  ∀ (i : Instr) (s t : State) (x : Nat), exec i s = .next t →
    (i ≠ .modmul → i ≠ .modexp → exec i { s with B := x } = .next { t with B := x }) ∧
    (i ≠ .modmul → i ≠ .modexp → i ≠ .modinv → i ≠ .gcd → i ≠ .mrround →
      exec i { s with A := x } = .next { t with A := x }) ∧
    ((i = .nop ∨ (∃ len, i = .randodd len) ∨ (∃ len k, i = .genprimeRounds len k) ∨ (∃ len, i = .genprimeAuto len)) →
      exec i { s with N := x } = .next { t with N := x })

/-! ## Draws -/

/-- R79, R80, R211: a command consumes the answers in the order given, each exactly once; it records each draw with the
answer it got; every range it declares is non-empty and inside W bits. -/
def Obligations.CommandsConsumeAnswersInOrder : Prop :=
  ∀ (i : Instr) (s t : State), s.registersFit → s.phase = .busy → exec i s = .next t → t.phase ≠ .busy →
    ∃ (taken : List Nat) (ds : List Draw) (last : PortEvent),
      s.entropy = taken ++ t.entropy ∧ ds.map Draw.value = taken.map (answered s) ∧
      t.history = eventsOf ds last ++ s.history ∧ ((∃ res, last = .completed res) ∨ ∃ f, last = .failed f) ∧ ∀ d ∈ ds, d.lo ≤ d.hi ∧ d.hi < 2 ^ s.width

/-- R82: the commands that make no draw make none, and the others make at most their number. -/
def Obligations.CommandsDrawAtMostTheirNumber : Prop :=
  ∀ (i : Instr) (s t : State), exec i s = .next t →
    (drawsNothing i → t.entropy = s.entropy) ∧ s.entropy.length - t.entropy.length ≤ mostDraws i s

/-- R211, R276: every command ends, DONE or ERR, when enough answers are there; a command that makes no draw needs none. -/
def Obligations.CommandsEndWhenTheirDrawsAreAnswered : Prop :=
  ∀ (i : Instr) (s : State), mostDraws i s ≤ s.entropy.length →
    ∃ t, exec i s = .next t ∧ (t.phase = .done ∨ t.phase = .err)

/-- R81: a command whose script runs dry holds: exec answers the state it is given, so that a block in BUSY stays in BUSY. In BUSY
a command that has not ended has changed nothing, and with no other move to come the machine stays there. That nothing is
consumed or recorded until the command ends is the model's choice (log entry 4). -/
def Obligations.AnUnansweredDrawHoldsTheBlock : Prop :=
  ∀ (i : Instr) (s : State),
    (runsDry i s → exec i s = .next s) ∧
    (∀ t, s.phase = .busy → decode s.cmd = .ok i → exec i s = .next t → t.phase = .busy →
      t = s ∧ (s.agenda = [] → step s = .next s))

/-- R81: an answer lifts the hold: RANDODD waiting with an empty script completes once the entropy source has answered. No draw
abandoned by an earlier reset is to be answered first (R261; log entry 7). -/
def Obligations.AnAnswerLiftsTheHold : Prop :=
  ∀ (len v : Nat) (s : State), s.phase = .busy → decode s.cmd = .ok (.randodd len) → 2 ≤ len → len ≤ s.width →
    s.entropy = [] → s.abandoned = 0 → s.agenda = [.sequencer, .answer v] → answered s v ≤ 2 ^ len - 1 →
    step s = .next { s with agenda := [.answer v] } ∧
    step { s with agenda := [.answer v] } = .next { s with agenda := [], entropy := [v] } ∧
    ∃ t, step { s with agenda := [], entropy := [v] } = .next t ∧ t.phase = .done ∧ t.R = candidate s len v

/-! ## The step -/

/-- R44, R211: a step performs the agenda's first move, or the sequencer's where there is none (log entry 2). The sequencer is
enabled when the phase is BUSY, and it then runs the decoded command. -/
def Obligations.AStepRunsTheDecodedCommand : Prop :=
  ∀ s : State,
    (∀ e rest, s.agenda = e :: rest → step s = perform e { s with agenda := rest }) ∧
    (s.agenda = [] → step s = perform .sequencer s) ∧
    (∀ i, s.phase = .busy → decode s.cmd = .ok i → perform .sequencer s = exec i s) ∧
    (s.phase ≠ .busy → perform .sequencer s = .next s)

/-- R210, R211: a legal word given to the machine runs in the very next step, on the operands the state holds. -/
def Obligations.AFetchedWordRunsInTheNextStep : Prop :=
  ∀ (s : State) (w : Nat) (i : Instr), w < 2 ^ 32 → decode (BitVec.ofNat 32 w) = .ok i →
    step (s.withFetchWord 32 w) = exec i
      { s with cmd := BitVec.ofNat 32 w, verdict := .none, phase := .busy, errcode := 0,
               history := .accepted (BitVec.ofNat 32 w) :: s.history }

/-- R225: every illegal word fails with IllegalCommand, code 5; nothing is read, drawn or written. -/
def Obligations.IllegalWordsFailWithIllegalCommand : Prop :=
  ∀ s : State, s.phase = .busy → legal s.cmd = false → perform .sequencer s = .next
    { s with verdict := .none, errcode := 5, phase := .err, history := .failed .illegalCommand :: s.history }

/-- R220, R223, R234: trap entry leaves the kind's code, the verdict NONE and the phase ERR, and changes nothing else. -/
def Obligations.TrapEntryChangesStatusOnly : Prop :=
  (∀ (s : State) (k : Failure), s.trapEntry k =
    { s with verdict := .none, errcode := k.code, phase := .err, history := .failed k :: s.history }) ∧
  (∀ (s : State) (k : Failure), s.ieErr = true → (s.trapEntry k).irq = true) ∧
  Failure.code .invalidInput = 1 ∧ Failure.code .primeGenerationExhausted = 2 ∧ Failure.code .noCoprimeExponentFound = 3 ∧
  Failure.code .encodingOverflow = 4 ∧ Failure.code .illegalCommand = 5 ∧ Failure.code .notInvertible = 6 ∧
  Failure.code .entropyRange = 7

/-- R210: a CMD write is accepted in IDLE and DONE, whatever its bits, and ignored with OVR set in BUSY and ERR. -/
def Obligations.CmdWritesAreAcceptedInIdleAndDone : Prop :=
  ∀ (s : State) (w : Word),
    ((s.phase = .idle ∨ s.phase = .done) → hostWrite 0x000 w s = .next
      { s with cmd := w, verdict := .none, phase := .busy, history := .accepted w :: s.history }) ∧
    ((s.phase = .busy ∨ s.phase = .err) → hostWrite 0x000 w s = .next
      { s with ovr := true, history := .ignored 0x000 w :: s.history })

/-- R237, R238, R239: a STATUS write acknowledges a failure, dismisses a completion and clears OVR, each bit by itself; in
BUSY it is ignored and sets OVR. -/
def Obligations.StatusWritesClearByWritingOne : Prop :=
  ∀ (s : State) (v : Word),
    (s.phase = .busy → hostWrite 0x004 v s = .next { s with ovr := true, history := .ignored 0x004 v :: s.history }) ∧
    (s.phase ≠ .busy → ∃ t, hostWrite 0x004 v s = .next t ∧
      t.phase = (if (v.getLsbD 2 = true ∧ s.phase = .err) ∨ (v.getLsbD 1 = true ∧ s.phase = .done) then .idle else s.phase) ∧
      t.errcode = (if v.getLsbD 2 = true ∧ s.phase = .err then 0 else s.errcode) ∧
      t.ovr = (s.ovr && !v.getLsbD 3) ∧
      t = { s with phase := t.phase, errcode := t.errcode, ovr := t.ovr })

/-- R72: the whole of HostWrite, offset by offset. The write of STATUS outside BUSY is the three rules R237 to R239, which have
a statement of their own. -/
def Obligations.HostWritesActByOffsetAndPhase : Prop :=
  ∀ (s : State) (v : Word), s.parametersLegal →
    hostWrite 0x008 v s = .next { s with ieDone := v.getLsbD 0, ieErr := v.getLsbD 1 } ∧
    (∀ off, (off = 0x00C ∨ reservedOffset s off ∨ ∃ x i, resultLimb s x i off) →
      hostWrite off v s = .next { s with history := .ignored off v :: s.history }) ∧
    (∀ off, writeIgnoredByPhase s off → hostWrite off v s = .next { s with ovr := true, history := .ignored off v :: s.history }) ∧
    (s.phase ≠ .busy → s.phase ≠ .err → hostWrite 0x000 v s = .next
      { s with cmd := v, verdict := .none, phase := .busy, history := .accepted v :: s.history }) ∧
    (s.phase ≠ .busy → hostWrite 0x004 v s = .next (((s.acknowledge v).dismiss v).clearOvr v)) ∧
    (∀ x i off, operandLimb s x i off → s.phase ≠ .busy → hostWrite off v s = .next (s.setReg x (withLimb (s.reg x) i v)))

/-- The whole of HostRead: the word that is returned, and that nothing of the block changes. What a data register reads as in
BUSY is left open. That the word stands in the record as `returned`, which R42 does not list, is the model's choice (log entry
8), and so is the counter `reads` of the free values (log entry 5). -/
def Obligations.HostReadsReturnTheWordAndChangeNothing : Prop :=
  ∀ (s : State) (off : Nat), s.parametersLegal → off % 4 = 0 → off ≤ 0xFFC →
    ∃ v n, hostRead off s = .next { s with history := .returned off v :: s.history, reads := n } ∧
      (off = 0x000 → v = s.cmd) ∧ (off = 0x004 → v = s.statusWord) ∧ (off = 0x008 → v = s.ctrlWord) ∧
      (off = 0x00C → v = s.cap) ∧ (reservedOffset s off → v = 0) ∧
      (∀ x i, operandLimb s x i off ∨ resultLimb s x i off → s.phase ≠ .busy → v = limbOf (s.reg x) i)

/-- R61 to R64: the register map. Inside the window, CMD, STATUS, CTRL and CAP stand at their offsets and nowhere else, a slot
is a limb of a register exactly at the offset of that limb, and the reserved slots are exactly the reserved offsets. -/
def Obligations.EveryWordOffsetHasOneRole : Prop :=
  ∀ (s : State) (off : Nat), s.parametersLegal → off % 4 = 0 → off ≤ 0xFFC →
    (slotAt s.nlimb off = .cmd ↔ off = 0x000) ∧ (slotAt s.nlimb off = .status ↔ off = 0x004) ∧
    (slotAt s.nlimb off = .ctrl ↔ off = 0x008) ∧ (slotAt s.nlimb off = .cap ↔ off = 0x00C) ∧
    (∀ x i, slotAt s.nlimb off = .limb x i ↔ operandLimb s x i off ∨ resultLimb s x i off) ∧
    (slotAt s.nlimb off = .reserved ↔ reservedOffset s off)

/-- R69: an access that is not a word access inside the window is no step. -/
def Obligations.AccessesOffThePortAreNoStep : Prop :=
  ∀ (s : State) (off : Nat) (v : Word),
    ((off % 4 ≠ 0 ∨ off > 0xFFC) → (∃ f, hostRead off s = .fault f) ∧ ∃ f, hostWrite off v s = .fault f) ∧
    (off % 4 = 0 → off ≤ 0xFFC → (∃ t, hostRead off s = .next t) ∧ ∃ t, hostWrite off v s = .next t)

/-- R62, R67: a written limb reads back, every other limb keeps its value, and a register's value is the concatenation of its
limbs, the least significant at the lowest offset. -/
def Obligations.RegistersAreTheirLimbs : Prop :=
  (∀ (x i j : Nat) (v : Word), limbOf (withLimb x i v) i = v ∧ (j ≠ i → limbOf (withLimb x i v) j = limbOf x j)) ∧
  ∀ (n x : Nat), x < 2 ^ (32 * n) → ((List.range n).map fun i => (limbOf x i).toNat * 2 ^ (32 * i)).sum = x

/-- R31, R35, R36, R37: the STATUS word bit by bit, its reserved bits zero, and the codes of VERDICT; the CTRL and CAP words. -/
def Obligations.ControlWordsHaveTheirFields : Prop :=
  (Verdict.code .none = 0 ∧ Verdict.code .composite = 1 ∧ Verdict.code .prime = 2 ∧ Verdict.code .undecided = 3) ∧
  ∀ s : State,
    s.statusWord.getLsbD 0 = (s.phase == .busy) ∧ s.statusWord.getLsbD 1 = (s.phase == .done) ∧
    s.statusWord.getLsbD 2 = (s.phase == .err) ∧ s.statusWord.getLsbD 3 = s.ovr ∧
    s.statusWord.extractLsb' 4 2 = s.verdict.code ∧ s.statusWord.extractLsb' 6 2 = 0 ∧
    s.statusWord.extractLsb' 8 4 = s.errcode ∧ s.statusWord.extractLsb' 12 20 = 0 ∧
    s.ctrlWord.getLsbD 0 = s.ieDone ∧ s.ctrlWord.getLsbD 1 = s.ieErr ∧ s.ctrlWord.extractLsb' 2 30 = 0 ∧
    (s.cap.extractLsb' 0 16).toNat = s.width ∧ (s.cap.extractLsb' 16 16).toNat = s.kRetry

/-- R45, R260, R261: reset leaves the reset values, in every state, and CAP is constant. The draws that the abandoned command
had made stay made: their answers stay consumed and they are recorded. They, and a draw outstanding, are those of the command
run on its first `k` answers; that the number `k` is part of the move is the model's choice (log entry 6). An answer that
arrives for an abandoned draw is ignored, and the next one is for the draws to come; that abandoned draws are counted and
answered in order of arrival is the model's (log entry 7). -/
def Obligations.ResetLeavesTheResetState : Prop :=
  (∀ (s : State) (k : Nat), ∃ t, perform (.rst k) s = .next t ∧
    t.phase = .idle ∧ t.cmd = 0 ∧ t.ovr = false ∧ t.verdict = .none ∧ t.errcode = 0 ∧ t.ieDone = false ∧ t.ieErr = false ∧
    t.cap = s.cap ∧ t.N = 0 ∧ t.A = 0 ∧ t.B = 0 ∧ t.R = 0 ∧ t.T = 0 ∧ t.S = 0 ∧
    t.statusWord = 0 ∧ t.ctrlWord = 0 ∧ t.irq = false ∧ t.agenda = s.agenda ∧ t.reads = s.reads ∧
    t.entropy = s.entropy.drop (abandonedDraws k s).length ∧
    t.history = (abandonedDraws k s).map .drew ++ s.history ∧
    (abandonedDraws k s).length ≤ k ∧
    (abandonedDraws k s).reverse.map Draw.value = (s.entropy.take (abandonedDraws k s).length).map (answered s) ∧
    (s.phase ≠ .busy ∨ legal s.cmd = false → abandonedDraws k s = [] ∧ t.abandoned = s.abandoned) ∧
    ∀ i u, s.phase = .busy → decode s.cmd = .ok i → exec i { s with entropy := s.entropy.take k } = .next u →
      (u.phase = .busy → t.entropy = s.entropy.drop k ∧ t.abandoned = s.abandoned + 1) ∧
      (u.phase ≠ .busy → t.entropy = u.entropy ++ s.entropy.drop k ∧ t.abandoned = s.abandoned ∧
        ∃ last, u.history = last :: t.history)) ∧
  ∀ (s : State) (v : Nat),
    (0 < s.abandoned → perform (.answer v) s = .next { s with abandoned := s.abandoned - 1 }) ∧
    (s.abandoned = 0 → perform (.answer v) s = .next { s with entropy := s.entropy ++ [v] })

/-! ## The whole machine -/

/-- R30: the complete list of phase transitions, over every move of every agent: each row of the list happens, and no other
transition exists. A command whose draw has no answer makes none yet (R81). -/
def Obligations.PhaseTransitionsAreTheListedOnes : Prop :=
  ∀ (e : Event) (s t : State), perform e s = .next t →
    (∀ k, e = .rst k → t.phase = .idle) ∧
    (∀ w, e = .hostWrite 0x000 w → s.phase = .idle ∨ s.phase = .done → t.phase = .busy) ∧
    (∀ w, e = .hostWrite 0x000 w → s.phase = .busy ∨ s.phase = .err → t.phase = s.phase ∧ t.ovr = true) ∧
    (e = .sequencer → s.phase = .busy → t = s ∨
      (t.phase = .done ∧ ∃ res, t.history.head? = some (.completed res)) ∨
      (t.phase = .err ∧ ∃ f : Failure, t.errcode = f.code ∧ t.history.head? = some (.failed f))) ∧
    (∀ v, e = .hostWrite 0x004 v → v.getLsbD 1 = true → s.phase = .done → t.phase = .idle) ∧
    (∀ v, e = .hostWrite 0x004 v → v.getLsbD 2 = true → s.phase = .err → t.phase = .idle) ∧
    (t.phase ≠ s.phase →
      (∃ k, e = .rst k) ∨ (∃ w, e = .hostWrite 0x000 w ∧ (s.phase = .idle ∨ s.phase = .done)) ∨
      (e = .sequencer ∧ s.phase = .busy) ∨ (∃ v, e = .hostWrite 0x004 v ∧ v.getLsbD 1 = true ∧ s.phase = .done) ∨
      (∃ v, e = .hostWrite 0x004 v ∧ v.getLsbD 2 = true ∧ s.phase = .err))

/-- R29: CMD changes only when a CMD write is accepted, or by reset. -/
def Obligations.CmdChangesOnlyOnAcceptanceOrReset : Prop :=
  ∀ (e : Event) (s t : State), perform e s = .next t → t.cmd ≠ s.cmd →
    (e = .hostWrite 0x000 t.cmd ∧ (s.phase = .idle ∨ s.phase = .done) ∧ t.phase = .busy) ∨
    ((∃ k, e = .rst k) ∧ t.cmd = 0)

/-- R27, R74: N, A and B change only by a host write outside BUSY, or by reset: the operands at completion are those at
acceptance. -/
def Obligations.OperandsChangeOnlyByHostWritesOutsideBusy : Prop :=
  ∀ (e : Event) (s t : State), perform e s = .next t → (t.N ≠ s.N ∨ t.A ≠ s.A ∨ t.B ≠ s.B) →
    ((∃ off v, e = .hostWrite off v ∧ 0x200 ≤ off ∧ off < 0x800) ∧ s.phase ≠ .busy ∧ t.phase = s.phase) ∨ ∃ k, e = .rst k

/-- R32: OVR is set whenever the phase makes the block ignore a host write, and by nothing else; it is cleared only by writing 1
to it outside BUSY, or by reset; no command reads or writes it. -/
def Obligations.OverrunIsSticky : Prop :=
  (∀ (e : Event) (s t : State), s.parametersLegal → perform e s = .next t →
    (∀ off v, e = .hostWrite off v → writeIgnoredByPhase s off → t.ovr = true) ∧
    (s.ovr = false → t.ovr = true → ∃ off v, e = .hostWrite off v ∧ writeIgnoredByPhase s off) ∧
    (s.ovr = true → t.ovr = false →
      (∃ v, e = .hostWrite 0x004 v ∧ v.getLsbD 3 = true ∧ s.phase ≠ .busy) ∨ ∃ k, e = .rst k)) ∧
  ∀ (i : Instr) (s t : State) (b : Bool), exec i s = .next t →
    t.ovr = s.ovr ∧ exec i { s with ovr := b } = .next { t with ovr := b }

/-- R229: `irq` is the level of DONE and ERR under their enables. It rises when a command ends with the matching enable set or
the host sets an enable; it falls when the bit is cleared, a command is accepted from DONE, the enable is cleared, or at
reset. -/
def Obligations.InterruptRisesOnlyOnCompletionOrEnable : Prop :=
  (∀ s : State, s.irq = true ↔ (s.phase = .done ∧ s.ieDone = true) ∨ (s.phase = .err ∧ s.ieErr = true)) ∧
  ∀ (e : Event) (s t : State), perform e s = .next t →
    (s.irq = false → t.irq = true →
      (e = .sequencer ∧ s.phase = .busy) ∨ (∃ v, e = .hostWrite 0x008 v ∧ t.phase = s.phase)) ∧
    (s.irq = true → t.irq = false →
      (∃ v, e = .hostWrite 0x004 v ∧ t.phase = .idle ∧
        ((v.getLsbD 1 = true ∧ s.phase = .done) ∨ (v.getLsbD 2 = true ∧ s.phase = .err))) ∨
      (∃ w, e = .hostWrite 0x000 w ∧ s.phase = .done ∧ t.phase = .busy) ∨
      (∃ v, e = .hostWrite 0x008 v ∧ t.phase = s.phase) ∨ ∃ k, e = .rst k)

/-- The step never refuses, and it faults only on a host access that the port cannot carry (R69): no command and no state of
the entropy source stops the machine. -/
def Obligations.OnlyAccessesOffThePortStopTheMachine : Prop :=
  ∀ s : State, (∃ t, step s = .next t) ∨
    (∃ f off rest, step s = .fault f ∧ (s.agenda = .hostRead off :: rest ∨ ∃ v, s.agenda = .hostWrite off v :: rest) ∧
      (off % 4 ≠ 0 ∨ off > 0xFFC))

/-- The invariant holds in the reset state of every chip with legal parameters. The two parameters of `State.reset` are the
reference values (log entry 1, the model's choice). -/
def Obligations.ResetSatisfiesTheInvariant : Prop :=
  State.reset.wf ∧ ∀ cap : Word, (State.resetOf cap).parametersLegal → (State.resetOf cap).wf

/-- R26, R28, R31, R35, R37: every step of every agent keeps the invariant: parameters legal and constant, every register
within its width, the STATUS fields as the phase allows them, CMD naming the command that ran. -/
def Obligations.EveryStepKeepsTheInvariant : Prop :=
  ∀ (s t : State), s.wf → step s = .next t → t.wf ∧ t.cap = s.cap

/-- R74, R77: while a command runs, host traffic cannot change its outcome: after any host access in BUSY
the command is still the one that runs, and it ends with the same phase, verdict, failure code, results, operands and remaining answers. -/
def Obligations.HostTrafficDoesNotDisturbARunningCommand : Prop :=
  ∀ (i : Instr) (s u t : State) (e : Event), s.phase = .busy → decode s.cmd = .ok i →
    ((∃ off, e = .hostRead off) ∨ ∃ off v, e = .hostWrite off v) → perform e s = .next u → exec i s = .next t →
    u.phase = .busy ∧ u.cmd = s.cmd ∧
    ∃ t', exec i u = .next t' ∧ t'.phase = t.phase ∧ t'.verdict = t.verdict ∧ t'.errcode = t.errcode ∧
      t'.R = t.R ∧ t'.T = t.T ∧ t'.S = t.S ∧ t'.N = t.N ∧ t'.A = t.A ∧ t'.B = t.B ∧ t'.entropy = t.entropy

/-- R196: MODEXP undoes MODEXP: with N = p*q for distinct primes and `(d * e) mod ((p-1)*(q-1)) = 1`, encrypting a unit below N
and decrypting the result gives the unit back. -/
def Obligations.ModexpUndoesModexp : Prop :=
  ∀ (s : State) (p q e d m : Nat), Nat.Prime p → Nat.Prime q → p ≠ q → d * e % ((p - 1) * (q - 1)) = 1 →
    s.N = p * q → s.A = m → m < s.N → s.B = e →
    ∃ t, exec .modexp s = .next t ∧ t.phase = .done ∧
      ∃ u, exec .modexp { t with A := t.R, B := d } = .next u ∧ u.phase = .done ∧ u.R = m
end

