-- ==== Sys2Proof/Laws/Arith.lean ====
section
/-! SUPPORT. What each loop of Arith.lean computes, from any point of the loop: one lemma per function. -/

namespace Sys2Proof.Machine

/-- `bitlen v` is the least `k` with `v < 2^k` (R10). -/
theorem bitlen_le_iff (v k : Nat) : bitlen v ≤ k ↔ v < 2 ^ k := by
  unfold bitlen
  split
  · simp [*]
  · next h => rw [Nat.succ_le_iff, Nat.log2_lt h]

/-- A value with top bit `k` has `k + 1` bits. -/
theorem bitlen_eq_of_top_bit {v k : Nat} (lo : 2 ^ k ≤ v) (hi : v < 2 ^ (k + 1)) : bitlen v = k + 1 :=
  le_antisymm ((bitlen_le_iff _ _).2 hi) (Nat.lt_of_not_le fun h => absurd ((bitlen_le_iff _ _).1 h) (by omega))

/-- The square-and-multiply loop from any accumulator below the modulus: `r^(2^i) * a^(e mod 2^i)`, reduced. -/
theorem modexpLoop_eq (a e n : Nat) : ∀ i r, r % n = r →
    modexpLoop a e n i r = r ^ 2 ^ i * a ^ (e % 2 ^ i) % n
  | 0, r, h => by simp [modexpLoop, Nat.mod_one, h]
  | i + 1, r, h => by
    have square : ∀ x y : Nat, (r * r % n) ^ x * y % n = r ^ (2 * x) * y % n := fun x y => by
      rw [Nat.mul_mod, ← Nat.pow_mod, ← Nat.mul_mod, pow_mul, sq]
    have split : e % 2 ^ (i + 1) = e % 2 ^ i + 2 ^ i * (e / 2 ^ i % 2) := Nat.mod_pow_succ
    unfold modexpLoop
    simp only [modmul]
    split
    · next hb =>
      rw [modexpLoop_eq a e n i _ (Nat.mod_mod _ _), split]
      have one : e / 2 ^ i % 2 = 1 := by
        simpa [Nat.testBit_eq_decide_div_mod_eq] using hb
      rw [one, Nat.mul_mod, ← Nat.pow_mod, ← Nat.mul_mod, Nat.mul_pow, mul_assoc, square, ← pow_succ', mul_one]
      congr 2
      rw [pow_add, mul_comm]
    · next hb =>
      rw [modexpLoop_eq a e n i _ (Nat.mod_mod _ _), split]
      have zero : e / 2 ^ i % 2 = 0 := by
        have := Nat.mod_two_eq_zero_or_one (e / 2 ^ i)
        simp [Nat.testBit_eq_decide_div_mod_eq] at hb
        omega
      rw [zero, square, ← pow_succ', mul_zero, add_zero]

/-- The halving loop from any even or odd `t >= 1` with enough fuel: the powers of two move into `s`. -/
theorem decompLoop_spec : ∀ fuel t s, 1 ≤ t → t ≤ fuel →
    ∃ k, (decompLoop fuel t s).1 = s + k ∧ t = 2 ^ k * (decompLoop fuel t s).2 ∧ (decompLoop fuel t s).2 % 2 = 1
  | 0, t, s, h1, h2 => by omega
  | fuel + 1, t, s, h1, h2 => by
    unfold decompLoop
    split
    · obtain ⟨k, hs, ht, hodd⟩ := decompLoop_spec fuel (t / 2) (s + 1) (by omega) (by omega)
      refine ⟨k + 1, by omega, ?_, hodd⟩
      rw [pow_succ', mul_assoc, ← ht]; omega
    · exact ⟨0, by simp, by simp, by omega⟩

/-- A power of two times an odd number determines both. -/
theorem two_pow_mul_odd_unique {e f t u : Nat} (h : 2 ^ e * t = 2 ^ f * u) (ht : t % 2 = 1) (hu : u % 2 = 1) :
    e = f ∧ t = u := by
  induction e generalizing f with
  | zero =>
    cases f with
    | zero => simpa using h
    | succ f => rw [pow_succ', mul_assoc] at h; omega
  | succ e ih =>
    cases f with
    | zero => rw [pow_succ', mul_assoc] at h; omega
    | succ f =>
      rw [pow_succ', pow_succ', mul_assoc, mul_assoc] at h
      obtain ⟨rfl, rfl⟩ := ih (f := f) (by omega)
      exact ⟨rfl, rfl⟩

/-- The extended Euclid loop with enough fuel returns the gcd of its pair, and keeps the invariant of R180. -/
theorem egcdLoop_spec (p e : Int) : ∀ fuel (r0 r1 : Nat) (y0 y1 x0 x1 : Int), r1 < fuel →
    (r0 : Int) = p * x0 + e * y0 → (r1 : Int) = p * x1 + e * y1 →
    (egcdLoop fuel r0 r1 y0 y1).1 = Nat.gcd r0 r1 ∧
      ∃ x, ((egcdLoop fuel r0 r1 y0 y1).1 : Int) = p * x + e * (egcdLoop fuel r0 r1 y0 y1).2
  | 0, _, _, _, _, _, _, h, _, _ => absurd h (Nat.not_lt_zero _)
  | fuel + 1, r0, r1, y0, y1, x0, x1, h, h0, h1 => by
    unfold egcdLoop
    split
    · next hz => subst hz; exact ⟨by simp, x0, h0⟩
    · next hz =>
      have lt : r0 % r1 < r1 := Nat.mod_lt _ (by omega)
      have rem : ((r0 % r1 : Nat) : Int) = p * (x0 - (r0 / r1 : Nat) * x1) + e * (y0 - (r0 / r1 : Nat) * y1) := by
        have := Nat.mod_add_div r0 r1
        have : ((r0 % r1 : Nat) : Int) = r0 - r1 * (r0 / r1 : Nat) := by omega
        rw [this, h0, h1]; ring
      obtain ⟨g, b⟩ := egcdLoop_spec p e fuel r1 (r0 % r1) y1 _ x1 _ (by omega) h1 rem
      exact ⟨by rw [g, Nat.gcd_comm r0 r1, Nat.gcd_rec r1 r0, Nat.gcd_comm], b⟩

/-- What the squarings look for, from `x` on: `n - 1` among the next `j` squares (R134). A 1 met first ends the round, and no
later square is `n - 1`. -/
theorem squarings_pass_iff (n : Nat) (hn : 2 < n) : ∀ j x,
    squarings n j x = .pass ↔ ∃ k, k < j ∧ x ^ 2 ^ (k + 1) % n = n - 1
  | 0, x => by simp [squarings]
  | j + 1, x => by
    have next : ∀ k, (modmul x x n) ^ 2 ^ (k + 1) % n = x ^ 2 ^ (k + 2) % n := fun k => by
      rw [modmul, ← Nat.pow_mod, ← sq, ← pow_mul, ← pow_succ']
    unfold squarings
    split
    · next h => exact ⟨fun _ => ⟨0, by omega, by simpa [modmul, sq] using h⟩, fun _ => rfl⟩
    · next h =>
      split
      · next h1 =>
        refine ⟨fun c => by simp at c, ?_⟩
        rintro ⟨k, _, hk⟩
        cases k with
        | zero => exact absurd (by simpa [modmul, sq] using hk) h
        | succ k => rw [← next, h1, one_pow, Nat.mod_eq_of_lt (by omega)] at hk; omega
      · rw [squarings_pass_iff n hn j]
        constructor
        · rintro ⟨k, hk, e⟩; exact ⟨k + 1, by omega, by rw [← next]; exact e⟩
        · rintro ⟨k, hk, e⟩
          cases k with
          | zero => exact absurd (by simpa [modmul, sq] using e) h
          | succ k => exact ⟨k, by omega, by rw [next]; exact e⟩

end Sys2Proof.Machine
end

