-- ==== Sys2Proof/Laws/State.lean ====
section
/-! SUPPORT. What each update of the state leaves in each field: one lemma per field per update, so that no proof unfolds a
record update. -/

namespace Sys2Proof.Machine

variable (s : State)

/-! `State.record` -/

@[simp] theorem State.record_cmd (e : PortEvent) : (s.record e).cmd = s.cmd := rfl
@[simp] theorem State.record_phase (e : PortEvent) : (s.record e).phase = s.phase := rfl
@[simp] theorem State.record_ovr (e : PortEvent) : (s.record e).ovr = s.ovr := rfl
@[simp] theorem State.record_verdict (e : PortEvent) : (s.record e).verdict = s.verdict := rfl
@[simp] theorem State.record_errcode (e : PortEvent) : (s.record e).errcode = s.errcode := rfl
@[simp] theorem State.record_ieDone (e : PortEvent) : (s.record e).ieDone = s.ieDone := rfl
@[simp] theorem State.record_ieErr (e : PortEvent) : (s.record e).ieErr = s.ieErr := rfl
@[simp] theorem State.record_cap (e : PortEvent) : (s.record e).cap = s.cap := rfl
@[simp] theorem State.record_N (e : PortEvent) : (s.record e).N = s.N := rfl
@[simp] theorem State.record_A (e : PortEvent) : (s.record e).A = s.A := rfl
@[simp] theorem State.record_B (e : PortEvent) : (s.record e).B = s.B := rfl
@[simp] theorem State.record_R (e : PortEvent) : (s.record e).R = s.R := rfl
@[simp] theorem State.record_T (e : PortEvent) : (s.record e).T = s.T := rfl
@[simp] theorem State.record_S (e : PortEvent) : (s.record e).S = s.S := rfl
@[simp] theorem State.record_entropy (e : PortEvent) : (s.record e).entropy = s.entropy := rfl
@[simp] theorem State.record_abandoned (e : PortEvent) : (s.record e).abandoned = s.abandoned := rfl
@[simp] theorem State.record_agenda (e : PortEvent) : (s.record e).agenda = s.agenda := rfl
@[simp] theorem State.record_history (e : PortEvent) : (s.record e).history = e :: s.history := rfl
@[simp] theorem State.record_reads (e : PortEvent) : (s.record e).reads = s.reads := rfl
@[simp] theorem State.record_width (e : PortEvent) : (s.record e).width = s.width := rfl
@[simp] theorem State.record_kRetry (e : PortEvent) : (s.record e).kRetry = s.kRetry := rfl
@[simp] theorem State.record_nlimb (e : PortEvent) : (s.record e).nlimb = s.nlimb := rfl

/-! `State.spend` -/

@[simp] theorem State.spend_cmd (p : Port) : (s.spend p).cmd = s.cmd := rfl
@[simp] theorem State.spend_phase (p : Port) : (s.spend p).phase = s.phase := rfl
@[simp] theorem State.spend_ovr (p : Port) : (s.spend p).ovr = s.ovr := rfl
@[simp] theorem State.spend_verdict (p : Port) : (s.spend p).verdict = s.verdict := rfl
@[simp] theorem State.spend_errcode (p : Port) : (s.spend p).errcode = s.errcode := rfl
@[simp] theorem State.spend_ieDone (p : Port) : (s.spend p).ieDone = s.ieDone := rfl
@[simp] theorem State.spend_ieErr (p : Port) : (s.spend p).ieErr = s.ieErr := rfl
@[simp] theorem State.spend_cap (p : Port) : (s.spend p).cap = s.cap := rfl
@[simp] theorem State.spend_N (p : Port) : (s.spend p).N = s.N := rfl
@[simp] theorem State.spend_A (p : Port) : (s.spend p).A = s.A := rfl
@[simp] theorem State.spend_B (p : Port) : (s.spend p).B = s.B := rfl
@[simp] theorem State.spend_R (p : Port) : (s.spend p).R = s.R := rfl
@[simp] theorem State.spend_T (p : Port) : (s.spend p).T = s.T := rfl
@[simp] theorem State.spend_S (p : Port) : (s.spend p).S = s.S := rfl
@[simp] theorem State.spend_entropy (p : Port) : (s.spend p).entropy = p.answers := rfl
@[simp] theorem State.spend_abandoned (p : Port) : (s.spend p).abandoned = s.abandoned := rfl
@[simp] theorem State.spend_agenda (p : Port) : (s.spend p).agenda = s.agenda := rfl
@[simp] theorem State.spend_history (p : Port) : (s.spend p).history = p.drawn.map PortEvent.drew ++ s.history := rfl
@[simp] theorem State.spend_reads (p : Port) : (s.spend p).reads = s.reads := rfl
@[simp] theorem State.spend_width (p : Port) : (s.spend p).width = s.width := rfl
@[simp] theorem State.spend_kRetry (p : Port) : (s.spend p).kRetry = s.kRetry := rfl
@[simp] theorem State.spend_nlimb (p : Port) : (s.spend p).nlimb = s.nlimb := rfl

/-! `State.complete` -/

@[simp] theorem State.complete_cmd (res : Result) : (s.complete res).cmd = s.cmd := rfl
@[simp] theorem State.complete_phase (res : Result) : (s.complete res).phase = .done := rfl
@[simp] theorem State.complete_ovr (res : Result) : (s.complete res).ovr = s.ovr := rfl
@[simp] theorem State.complete_verdict (res : Result) : (s.complete res).verdict = res.verdict := rfl
@[simp] theorem State.complete_errcode (res : Result) : (s.complete res).errcode = s.errcode := rfl
@[simp] theorem State.complete_ieDone (res : Result) : (s.complete res).ieDone = s.ieDone := rfl
@[simp] theorem State.complete_ieErr (res : Result) : (s.complete res).ieErr = s.ieErr := rfl
@[simp] theorem State.complete_cap (res : Result) : (s.complete res).cap = s.cap := rfl
@[simp] theorem State.complete_N (res : Result) : (s.complete res).N = s.N := rfl
@[simp] theorem State.complete_A (res : Result) : (s.complete res).A = s.A := rfl
@[simp] theorem State.complete_B (res : Result) : (s.complete res).B = s.B := rfl
@[simp] theorem State.complete_R (res : Result) : (s.complete res).R = res.r.getD s.R := rfl
@[simp] theorem State.complete_T (res : Result) : (s.complete res).T = (res.ts.map Prod.fst).getD s.T := rfl
@[simp] theorem State.complete_S (res : Result) : (s.complete res).S = (res.ts.map Prod.snd).getD s.S := rfl
@[simp] theorem State.complete_entropy (res : Result) : (s.complete res).entropy = s.entropy := rfl
@[simp] theorem State.complete_abandoned (res : Result) : (s.complete res).abandoned = s.abandoned := rfl
@[simp] theorem State.complete_agenda (res : Result) : (s.complete res).agenda = s.agenda := rfl
@[simp] theorem State.complete_history (res : Result) : (s.complete res).history = .completed res :: s.history := rfl
@[simp] theorem State.complete_reads (res : Result) : (s.complete res).reads = s.reads := rfl
@[simp] theorem State.complete_width (res : Result) : (s.complete res).width = s.width := rfl
@[simp] theorem State.complete_kRetry (res : Result) : (s.complete res).kRetry = s.kRetry := rfl
@[simp] theorem State.complete_nlimb (res : Result) : (s.complete res).nlimb = s.nlimb := rfl

/-! `State.trapEntry` -/

@[simp] theorem State.trapEntry_cmd (k : Failure) : (s.trapEntry k).cmd = s.cmd := rfl
@[simp] theorem State.trapEntry_phase (k : Failure) : (s.trapEntry k).phase = .err := rfl
@[simp] theorem State.trapEntry_ovr (k : Failure) : (s.trapEntry k).ovr = s.ovr := rfl
@[simp] theorem State.trapEntry_verdict (k : Failure) : (s.trapEntry k).verdict = .none := rfl
@[simp] theorem State.trapEntry_errcode (k : Failure) : (s.trapEntry k).errcode = k.code := rfl
@[simp] theorem State.trapEntry_ieDone (k : Failure) : (s.trapEntry k).ieDone = s.ieDone := rfl
@[simp] theorem State.trapEntry_ieErr (k : Failure) : (s.trapEntry k).ieErr = s.ieErr := rfl
@[simp] theorem State.trapEntry_cap (k : Failure) : (s.trapEntry k).cap = s.cap := rfl
@[simp] theorem State.trapEntry_N (k : Failure) : (s.trapEntry k).N = s.N := rfl
@[simp] theorem State.trapEntry_A (k : Failure) : (s.trapEntry k).A = s.A := rfl
@[simp] theorem State.trapEntry_B (k : Failure) : (s.trapEntry k).B = s.B := rfl
@[simp] theorem State.trapEntry_R (k : Failure) : (s.trapEntry k).R = s.R := rfl
@[simp] theorem State.trapEntry_T (k : Failure) : (s.trapEntry k).T = s.T := rfl
@[simp] theorem State.trapEntry_S (k : Failure) : (s.trapEntry k).S = s.S := rfl
@[simp] theorem State.trapEntry_entropy (k : Failure) : (s.trapEntry k).entropy = s.entropy := rfl
@[simp] theorem State.trapEntry_abandoned (k : Failure) : (s.trapEntry k).abandoned = s.abandoned := rfl
@[simp] theorem State.trapEntry_agenda (k : Failure) : (s.trapEntry k).agenda = s.agenda := rfl
@[simp] theorem State.trapEntry_history (k : Failure) : (s.trapEntry k).history = .failed k :: s.history := rfl
@[simp] theorem State.trapEntry_reads (k : Failure) : (s.trapEntry k).reads = s.reads := rfl
@[simp] theorem State.trapEntry_width (k : Failure) : (s.trapEntry k).width = s.width := rfl
@[simp] theorem State.trapEntry_kRetry (k : Failure) : (s.trapEntry k).kRetry = s.kRetry := rfl
@[simp] theorem State.trapEntry_nlimb (k : Failure) : (s.trapEntry k).nlimb = s.nlimb := rfl

/-! `State.overrun` -/

@[simp] theorem State.overrun_cmd (off : Nat) (v : Word) : (s.overrun off v).cmd = s.cmd := rfl
@[simp] theorem State.overrun_phase (off : Nat) (v : Word) : (s.overrun off v).phase = s.phase := rfl
@[simp] theorem State.overrun_ovr (off : Nat) (v : Word) : (s.overrun off v).ovr = true := rfl
@[simp] theorem State.overrun_verdict (off : Nat) (v : Word) : (s.overrun off v).verdict = s.verdict := rfl
@[simp] theorem State.overrun_errcode (off : Nat) (v : Word) : (s.overrun off v).errcode = s.errcode := rfl
@[simp] theorem State.overrun_ieDone (off : Nat) (v : Word) : (s.overrun off v).ieDone = s.ieDone := rfl
@[simp] theorem State.overrun_ieErr (off : Nat) (v : Word) : (s.overrun off v).ieErr = s.ieErr := rfl
@[simp] theorem State.overrun_cap (off : Nat) (v : Word) : (s.overrun off v).cap = s.cap := rfl
@[simp] theorem State.overrun_N (off : Nat) (v : Word) : (s.overrun off v).N = s.N := rfl
@[simp] theorem State.overrun_A (off : Nat) (v : Word) : (s.overrun off v).A = s.A := rfl
@[simp] theorem State.overrun_B (off : Nat) (v : Word) : (s.overrun off v).B = s.B := rfl
@[simp] theorem State.overrun_R (off : Nat) (v : Word) : (s.overrun off v).R = s.R := rfl
@[simp] theorem State.overrun_T (off : Nat) (v : Word) : (s.overrun off v).T = s.T := rfl
@[simp] theorem State.overrun_S (off : Nat) (v : Word) : (s.overrun off v).S = s.S := rfl
@[simp] theorem State.overrun_entropy (off : Nat) (v : Word) : (s.overrun off v).entropy = s.entropy := rfl
@[simp] theorem State.overrun_abandoned (off : Nat) (v : Word) : (s.overrun off v).abandoned = s.abandoned := rfl
@[simp] theorem State.overrun_agenda (off : Nat) (v : Word) : (s.overrun off v).agenda = s.agenda := rfl
@[simp] theorem State.overrun_history (off : Nat) (v : Word) : (s.overrun off v).history = .ignored off v :: s.history := rfl
@[simp] theorem State.overrun_reads (off : Nat) (v : Word) : (s.overrun off v).reads = s.reads := rfl
@[simp] theorem State.overrun_width (off : Nat) (v : Word) : (s.overrun off v).width = s.width := rfl
@[simp] theorem State.overrun_kRetry (off : Nat) (v : Word) : (s.overrun off v).kRetry = s.kRetry := rfl
@[simp] theorem State.overrun_nlimb (off : Nat) (v : Word) : (s.overrun off v).nlimb = s.nlimb := rfl

/-! `State.accept` -/

@[simp] theorem State.accept_cmd (w : Word) : (s.accept w).cmd = w := rfl
@[simp] theorem State.accept_phase (w : Word) : (s.accept w).phase = .busy := rfl
@[simp] theorem State.accept_ovr (w : Word) : (s.accept w).ovr = s.ovr := rfl
@[simp] theorem State.accept_verdict (w : Word) : (s.accept w).verdict = .none := rfl
@[simp] theorem State.accept_errcode (w : Word) : (s.accept w).errcode = s.errcode := rfl
@[simp] theorem State.accept_ieDone (w : Word) : (s.accept w).ieDone = s.ieDone := rfl
@[simp] theorem State.accept_ieErr (w : Word) : (s.accept w).ieErr = s.ieErr := rfl
@[simp] theorem State.accept_cap (w : Word) : (s.accept w).cap = s.cap := rfl
@[simp] theorem State.accept_N (w : Word) : (s.accept w).N = s.N := rfl
@[simp] theorem State.accept_A (w : Word) : (s.accept w).A = s.A := rfl
@[simp] theorem State.accept_B (w : Word) : (s.accept w).B = s.B := rfl
@[simp] theorem State.accept_R (w : Word) : (s.accept w).R = s.R := rfl
@[simp] theorem State.accept_T (w : Word) : (s.accept w).T = s.T := rfl
@[simp] theorem State.accept_S (w : Word) : (s.accept w).S = s.S := rfl
@[simp] theorem State.accept_entropy (w : Word) : (s.accept w).entropy = s.entropy := rfl
@[simp] theorem State.accept_abandoned (w : Word) : (s.accept w).abandoned = s.abandoned := rfl
@[simp] theorem State.accept_agenda (w : Word) : (s.accept w).agenda = s.agenda := rfl
@[simp] theorem State.accept_history (w : Word) : (s.accept w).history = .accepted w :: s.history := rfl
@[simp] theorem State.accept_reads (w : Word) : (s.accept w).reads = s.reads := rfl
@[simp] theorem State.accept_width (w : Word) : (s.accept w).width = s.width := rfl
@[simp] theorem State.accept_kRetry (w : Word) : (s.accept w).kRetry = s.kRetry := rfl
@[simp] theorem State.accept_nlimb (w : Word) : (s.accept w).nlimb = s.nlimb := rfl

/-! `State.writeCtrl` -/

@[simp] theorem State.writeCtrl_cmd (v : Word) : (s.writeCtrl v).cmd = s.cmd := rfl
@[simp] theorem State.writeCtrl_phase (v : Word) : (s.writeCtrl v).phase = s.phase := rfl
@[simp] theorem State.writeCtrl_ovr (v : Word) : (s.writeCtrl v).ovr = s.ovr := rfl
@[simp] theorem State.writeCtrl_verdict (v : Word) : (s.writeCtrl v).verdict = s.verdict := rfl
@[simp] theorem State.writeCtrl_errcode (v : Word) : (s.writeCtrl v).errcode = s.errcode := rfl
@[simp] theorem State.writeCtrl_ieDone (v : Word) : (s.writeCtrl v).ieDone = v.getLsbD 0 := rfl
@[simp] theorem State.writeCtrl_ieErr (v : Word) : (s.writeCtrl v).ieErr = v.getLsbD 1 := rfl
@[simp] theorem State.writeCtrl_cap (v : Word) : (s.writeCtrl v).cap = s.cap := rfl
@[simp] theorem State.writeCtrl_N (v : Word) : (s.writeCtrl v).N = s.N := rfl
@[simp] theorem State.writeCtrl_A (v : Word) : (s.writeCtrl v).A = s.A := rfl
@[simp] theorem State.writeCtrl_B (v : Word) : (s.writeCtrl v).B = s.B := rfl
@[simp] theorem State.writeCtrl_R (v : Word) : (s.writeCtrl v).R = s.R := rfl
@[simp] theorem State.writeCtrl_T (v : Word) : (s.writeCtrl v).T = s.T := rfl
@[simp] theorem State.writeCtrl_S (v : Word) : (s.writeCtrl v).S = s.S := rfl
@[simp] theorem State.writeCtrl_entropy (v : Word) : (s.writeCtrl v).entropy = s.entropy := rfl
@[simp] theorem State.writeCtrl_abandoned (v : Word) : (s.writeCtrl v).abandoned = s.abandoned := rfl
@[simp] theorem State.writeCtrl_agenda (v : Word) : (s.writeCtrl v).agenda = s.agenda := rfl
@[simp] theorem State.writeCtrl_history (v : Word) : (s.writeCtrl v).history = s.history := rfl
@[simp] theorem State.writeCtrl_reads (v : Word) : (s.writeCtrl v).reads = s.reads := rfl
@[simp] theorem State.writeCtrl_width (v : Word) : (s.writeCtrl v).width = s.width := rfl
@[simp] theorem State.writeCtrl_kRetry (v : Word) : (s.writeCtrl v).kRetry = s.kRetry := rfl
@[simp] theorem State.writeCtrl_nlimb (v : Word) : (s.writeCtrl v).nlimb = s.nlimb := rfl

/-! `State.resetBlock` -/

@[simp] theorem State.resetBlock_cmd : (s.resetBlock).cmd = 0 := rfl
@[simp] theorem State.resetBlock_phase : (s.resetBlock).phase = .idle := rfl
@[simp] theorem State.resetBlock_ovr : (s.resetBlock).ovr = false := rfl
@[simp] theorem State.resetBlock_verdict : (s.resetBlock).verdict = .none := rfl
@[simp] theorem State.resetBlock_errcode : (s.resetBlock).errcode = 0 := rfl
@[simp] theorem State.resetBlock_ieDone : (s.resetBlock).ieDone = false := rfl
@[simp] theorem State.resetBlock_ieErr : (s.resetBlock).ieErr = false := rfl
@[simp] theorem State.resetBlock_cap : (s.resetBlock).cap = s.cap := rfl
@[simp] theorem State.resetBlock_N : (s.resetBlock).N = 0 := rfl
@[simp] theorem State.resetBlock_A : (s.resetBlock).A = 0 := rfl
@[simp] theorem State.resetBlock_B : (s.resetBlock).B = 0 := rfl
@[simp] theorem State.resetBlock_R : (s.resetBlock).R = 0 := rfl
@[simp] theorem State.resetBlock_T : (s.resetBlock).T = 0 := rfl
@[simp] theorem State.resetBlock_S : (s.resetBlock).S = 0 := rfl
@[simp] theorem State.resetBlock_entropy : (s.resetBlock).entropy = s.entropy := rfl
@[simp] theorem State.resetBlock_abandoned : (s.resetBlock).abandoned = s.abandoned := rfl
@[simp] theorem State.resetBlock_agenda : (s.resetBlock).agenda = s.agenda := rfl
@[simp] theorem State.resetBlock_history : (s.resetBlock).history = s.history := rfl
@[simp] theorem State.resetBlock_reads : (s.resetBlock).reads = s.reads := rfl
@[simp] theorem State.resetBlock_width : (s.resetBlock).width = s.width := rfl
@[simp] theorem State.resetBlock_kRetry : (s.resetBlock).kRetry = s.kRetry := rfl
@[simp] theorem State.resetBlock_nlimb : (s.resetBlock).nlimb = s.nlimb := rfl

/-! `State.answer` -/

@[simp] theorem State.answer_cmd (v : Nat) : (s.answer v).cmd = s.cmd := rfl
@[simp] theorem State.answer_phase (v : Nat) : (s.answer v).phase = s.phase := rfl
@[simp] theorem State.answer_ovr (v : Nat) : (s.answer v).ovr = s.ovr := rfl
@[simp] theorem State.answer_verdict (v : Nat) : (s.answer v).verdict = s.verdict := rfl
@[simp] theorem State.answer_errcode (v : Nat) : (s.answer v).errcode = s.errcode := rfl
@[simp] theorem State.answer_ieDone (v : Nat) : (s.answer v).ieDone = s.ieDone := rfl
@[simp] theorem State.answer_ieErr (v : Nat) : (s.answer v).ieErr = s.ieErr := rfl
@[simp] theorem State.answer_cap (v : Nat) : (s.answer v).cap = s.cap := rfl
@[simp] theorem State.answer_N (v : Nat) : (s.answer v).N = s.N := rfl
@[simp] theorem State.answer_A (v : Nat) : (s.answer v).A = s.A := rfl
@[simp] theorem State.answer_B (v : Nat) : (s.answer v).B = s.B := rfl
@[simp] theorem State.answer_R (v : Nat) : (s.answer v).R = s.R := rfl
@[simp] theorem State.answer_T (v : Nat) : (s.answer v).T = s.T := rfl
@[simp] theorem State.answer_S (v : Nat) : (s.answer v).S = s.S := rfl
@[simp] theorem State.answer_entropy (v : Nat) : (s.answer v).entropy = if s.abandoned = 0 then s.entropy ++ [v] else s.entropy := rfl
@[simp] theorem State.answer_abandoned (v : Nat) : (s.answer v).abandoned = s.abandoned - 1 := rfl
@[simp] theorem State.answer_agenda (v : Nat) : (s.answer v).agenda = s.agenda := rfl
@[simp] theorem State.answer_history (v : Nat) : (s.answer v).history = s.history := rfl
@[simp] theorem State.answer_reads (v : Nat) : (s.answer v).reads = s.reads := rfl
@[simp] theorem State.answer_width (v : Nat) : (s.answer v).width = s.width := rfl
@[simp] theorem State.answer_kRetry (v : Nat) : (s.answer v).kRetry = s.kRetry := rfl
@[simp] theorem State.answer_nlimb (v : Nat) : (s.answer v).nlimb = s.nlimb := rfl

/-! `State.withdraw` -/

@[simp] theorem State.withdraw_cmd : (s.withdraw).cmd = s.cmd := rfl
@[simp] theorem State.withdraw_phase : (s.withdraw).phase = s.phase := rfl
@[simp] theorem State.withdraw_ovr : (s.withdraw).ovr = s.ovr := rfl
@[simp] theorem State.withdraw_verdict : (s.withdraw).verdict = s.verdict := rfl
@[simp] theorem State.withdraw_errcode : (s.withdraw).errcode = s.errcode := rfl
@[simp] theorem State.withdraw_ieDone : (s.withdraw).ieDone = s.ieDone := rfl
@[simp] theorem State.withdraw_ieErr : (s.withdraw).ieErr = s.ieErr := rfl
@[simp] theorem State.withdraw_cap : (s.withdraw).cap = s.cap := rfl
@[simp] theorem State.withdraw_N : (s.withdraw).N = s.N := rfl
@[simp] theorem State.withdraw_A : (s.withdraw).A = s.A := rfl
@[simp] theorem State.withdraw_B : (s.withdraw).B = s.B := rfl
@[simp] theorem State.withdraw_R : (s.withdraw).R = s.R := rfl
@[simp] theorem State.withdraw_T : (s.withdraw).T = s.T := rfl
@[simp] theorem State.withdraw_S : (s.withdraw).S = s.S := rfl
@[simp] theorem State.withdraw_entropy : (s.withdraw).entropy = s.entropy := rfl
@[simp] theorem State.withdraw_abandoned : (s.withdraw).abandoned = s.abandoned - 1 := rfl
@[simp] theorem State.withdraw_agenda : (s.withdraw).agenda = s.agenda := rfl
@[simp] theorem State.withdraw_history : (s.withdraw).history = s.history := rfl
@[simp] theorem State.withdraw_reads : (s.withdraw).reads = s.reads := rfl
@[simp] theorem State.withdraw_width : (s.withdraw).width = s.width := rfl
@[simp] theorem State.withdraw_kRetry : (s.withdraw).kRetry = s.kRetry := rfl
@[simp] theorem State.withdraw_nlimb : (s.withdraw).nlimb = s.nlimb := rfl

/-! `State.assertRst` -/

@[simp] theorem State.assertRst_cmd (k : Nat) : (s.assertRst k).cmd = 0 := rfl
@[simp] theorem State.assertRst_phase (k : Nat) : (s.assertRst k).phase = .idle := rfl
@[simp] theorem State.assertRst_ovr (k : Nat) : (s.assertRst k).ovr = false := rfl
@[simp] theorem State.assertRst_verdict (k : Nat) : (s.assertRst k).verdict = .none := rfl
@[simp] theorem State.assertRst_errcode (k : Nat) : (s.assertRst k).errcode = 0 := rfl
@[simp] theorem State.assertRst_ieDone (k : Nat) : (s.assertRst k).ieDone = false := rfl
@[simp] theorem State.assertRst_ieErr (k : Nat) : (s.assertRst k).ieErr = false := rfl
@[simp] theorem State.assertRst_cap (k : Nat) : (s.assertRst k).cap = s.cap := rfl
@[simp] theorem State.assertRst_N (k : Nat) : (s.assertRst k).N = 0 := rfl
@[simp] theorem State.assertRst_A (k : Nat) : (s.assertRst k).A = 0 := rfl
@[simp] theorem State.assertRst_B (k : Nat) : (s.assertRst k).B = 0 := rfl
@[simp] theorem State.assertRst_R (k : Nat) : (s.assertRst k).R = 0 := rfl
@[simp] theorem State.assertRst_T (k : Nat) : (s.assertRst k).T = 0 := rfl
@[simp] theorem State.assertRst_S (k : Nat) : (s.assertRst k).S = 0 := rfl
@[simp] theorem State.assertRst_entropy (k : Nat) : (s.assertRst k).entropy = s.entropy.drop (abandonedDraws k s).length := rfl
@[simp] theorem State.assertRst_abandoned (k : Nat) : (s.assertRst k).abandoned = if drawOutstanding k s then s.abandoned + 1 else s.abandoned := rfl
@[simp] theorem State.assertRst_agenda (k : Nat) : (s.assertRst k).agenda = s.agenda := rfl
@[simp] theorem State.assertRst_history (k : Nat) : (s.assertRst k).history = (abandonedDraws k s).map PortEvent.drew ++ s.history := rfl
@[simp] theorem State.assertRst_reads (k : Nat) : (s.assertRst k).reads = s.reads := rfl
@[simp] theorem State.assertRst_width (k : Nat) : (s.assertRst k).width = s.width := rfl
@[simp] theorem State.assertRst_kRetry (k : Nat) : (s.assertRst k).kRetry = s.kRetry := rfl
@[simp] theorem State.assertRst_nlimb (k : Nat) : (s.assertRst k).nlimb = s.nlimb := rfl

/-! `State.readSlot` -/

@[simp] theorem State.readSlot_cmd (off : Nat) (slot : Slot) : (s.readSlot off slot).cmd = s.cmd := rfl
@[simp] theorem State.readSlot_phase (off : Nat) (slot : Slot) : (s.readSlot off slot).phase = s.phase := rfl
@[simp] theorem State.readSlot_ovr (off : Nat) (slot : Slot) : (s.readSlot off slot).ovr = s.ovr := rfl
@[simp] theorem State.readSlot_verdict (off : Nat) (slot : Slot) : (s.readSlot off slot).verdict = s.verdict := rfl
@[simp] theorem State.readSlot_errcode (off : Nat) (slot : Slot) : (s.readSlot off slot).errcode = s.errcode := rfl
@[simp] theorem State.readSlot_ieDone (off : Nat) (slot : Slot) : (s.readSlot off slot).ieDone = s.ieDone := rfl
@[simp] theorem State.readSlot_ieErr (off : Nat) (slot : Slot) : (s.readSlot off slot).ieErr = s.ieErr := rfl
@[simp] theorem State.readSlot_cap (off : Nat) (slot : Slot) : (s.readSlot off slot).cap = s.cap := rfl
@[simp] theorem State.readSlot_N (off : Nat) (slot : Slot) : (s.readSlot off slot).N = s.N := rfl
@[simp] theorem State.readSlot_A (off : Nat) (slot : Slot) : (s.readSlot off slot).A = s.A := rfl
@[simp] theorem State.readSlot_B (off : Nat) (slot : Slot) : (s.readSlot off slot).B = s.B := rfl
@[simp] theorem State.readSlot_R (off : Nat) (slot : Slot) : (s.readSlot off slot).R = s.R := rfl
@[simp] theorem State.readSlot_T (off : Nat) (slot : Slot) : (s.readSlot off slot).T = s.T := rfl
@[simp] theorem State.readSlot_S (off : Nat) (slot : Slot) : (s.readSlot off slot).S = s.S := rfl
@[simp] theorem State.readSlot_entropy (off : Nat) (slot : Slot) : (s.readSlot off slot).entropy = s.entropy := rfl
@[simp] theorem State.readSlot_abandoned (off : Nat) (slot : Slot) : (s.readSlot off slot).abandoned = s.abandoned := rfl
@[simp] theorem State.readSlot_agenda (off : Nat) (slot : Slot) : (s.readSlot off slot).agenda = s.agenda := rfl
@[simp] theorem State.readSlot_history (off : Nat) (slot : Slot) : (s.readSlot off slot).history = .returned off (s.readValue slot) :: s.history := rfl
@[simp] theorem State.readSlot_reads (off : Nat) (slot : Slot) : (s.readSlot off slot).reads = if s.readIsFree slot then s.reads + 1 else s.reads := rfl
@[simp] theorem State.readSlot_width (off : Nat) (slot : Slot) : (s.readSlot off slot).width = s.width := rfl
@[simp] theorem State.readSlot_kRetry (off : Nat) (slot : Slot) : (s.readSlot off slot).kRetry = s.kRetry := rfl
@[simp] theorem State.readSlot_nlimb (off : Nat) (slot : Slot) : (s.readSlot off slot).nlimb = s.nlimb := rfl

/-! `State.loadCommand` -/

@[simp] theorem State.loadCommand_cmd (w : Word) : (s.loadCommand w).cmd = w := rfl
@[simp] theorem State.loadCommand_phase (w : Word) : (s.loadCommand w).phase = .busy := rfl
@[simp] theorem State.loadCommand_ovr (w : Word) : (s.loadCommand w).ovr = s.ovr := rfl
@[simp] theorem State.loadCommand_verdict (w : Word) : (s.loadCommand w).verdict = .none := rfl
@[simp] theorem State.loadCommand_errcode (w : Word) : (s.loadCommand w).errcode = 0 := rfl
@[simp] theorem State.loadCommand_ieDone (w : Word) : (s.loadCommand w).ieDone = s.ieDone := rfl
@[simp] theorem State.loadCommand_ieErr (w : Word) : (s.loadCommand w).ieErr = s.ieErr := rfl
@[simp] theorem State.loadCommand_cap (w : Word) : (s.loadCommand w).cap = s.cap := rfl
@[simp] theorem State.loadCommand_N (w : Word) : (s.loadCommand w).N = s.N := rfl
@[simp] theorem State.loadCommand_A (w : Word) : (s.loadCommand w).A = s.A := rfl
@[simp] theorem State.loadCommand_B (w : Word) : (s.loadCommand w).B = s.B := rfl
@[simp] theorem State.loadCommand_R (w : Word) : (s.loadCommand w).R = s.R := rfl
@[simp] theorem State.loadCommand_T (w : Word) : (s.loadCommand w).T = s.T := rfl
@[simp] theorem State.loadCommand_S (w : Word) : (s.loadCommand w).S = s.S := rfl
@[simp] theorem State.loadCommand_entropy (w : Word) : (s.loadCommand w).entropy = s.entropy := rfl
@[simp] theorem State.loadCommand_abandoned (w : Word) : (s.loadCommand w).abandoned = s.abandoned := rfl
@[simp] theorem State.loadCommand_agenda (w : Word) : (s.loadCommand w).agenda = .sequencer :: s.agenda := rfl
@[simp] theorem State.loadCommand_history (w : Word) : (s.loadCommand w).history = .accepted w :: s.history := rfl
@[simp] theorem State.loadCommand_reads (w : Word) : (s.loadCommand w).reads = s.reads := rfl
@[simp] theorem State.loadCommand_width (w : Word) : (s.loadCommand w).width = s.width := rfl
@[simp] theorem State.loadCommand_kRetry (w : Word) : (s.loadCommand w).kRetry = s.kRetry := rfl
@[simp] theorem State.loadCommand_nlimb (w : Word) : (s.loadCommand w).nlimb = s.nlimb := rfl

/-! `State.acknowledge` -/

@[simp] theorem State.acknowledge_cmd (v : Word) : (s.acknowledge v).cmd = s.cmd := by unfold State.acknowledge; split <;> rfl
@[simp] theorem State.acknowledge_phase (v : Word) : (s.acknowledge v).phase = if v.getLsbD 2 ∧ s.phase = .err then .idle else s.phase := by unfold State.acknowledge; split <;> rfl
@[simp] theorem State.acknowledge_ovr (v : Word) : (s.acknowledge v).ovr = s.ovr := by unfold State.acknowledge; split <;> rfl
@[simp] theorem State.acknowledge_verdict (v : Word) : (s.acknowledge v).verdict = s.verdict := by unfold State.acknowledge; split <;> rfl
@[simp] theorem State.acknowledge_errcode (v : Word) : (s.acknowledge v).errcode = if v.getLsbD 2 ∧ s.phase = .err then 0 else s.errcode := by unfold State.acknowledge; split <;> rfl
@[simp] theorem State.acknowledge_ieDone (v : Word) : (s.acknowledge v).ieDone = s.ieDone := by unfold State.acknowledge; split <;> rfl
@[simp] theorem State.acknowledge_ieErr (v : Word) : (s.acknowledge v).ieErr = s.ieErr := by unfold State.acknowledge; split <;> rfl
@[simp] theorem State.acknowledge_cap (v : Word) : (s.acknowledge v).cap = s.cap := by unfold State.acknowledge; split <;> rfl
@[simp] theorem State.acknowledge_N (v : Word) : (s.acknowledge v).N = s.N := by unfold State.acknowledge; split <;> rfl
@[simp] theorem State.acknowledge_A (v : Word) : (s.acknowledge v).A = s.A := by unfold State.acknowledge; split <;> rfl
@[simp] theorem State.acknowledge_B (v : Word) : (s.acknowledge v).B = s.B := by unfold State.acknowledge; split <;> rfl
@[simp] theorem State.acknowledge_R (v : Word) : (s.acknowledge v).R = s.R := by unfold State.acknowledge; split <;> rfl
@[simp] theorem State.acknowledge_T (v : Word) : (s.acknowledge v).T = s.T := by unfold State.acknowledge; split <;> rfl
@[simp] theorem State.acknowledge_S (v : Word) : (s.acknowledge v).S = s.S := by unfold State.acknowledge; split <;> rfl
@[simp] theorem State.acknowledge_entropy (v : Word) : (s.acknowledge v).entropy = s.entropy := by unfold State.acknowledge; split <;> rfl
@[simp] theorem State.acknowledge_abandoned (v : Word) : (s.acknowledge v).abandoned = s.abandoned := by unfold State.acknowledge; split <;> rfl
@[simp] theorem State.acknowledge_agenda (v : Word) : (s.acknowledge v).agenda = s.agenda := by unfold State.acknowledge; split <;> rfl
@[simp] theorem State.acknowledge_history (v : Word) : (s.acknowledge v).history = s.history := by unfold State.acknowledge; split <;> rfl
@[simp] theorem State.acknowledge_reads (v : Word) : (s.acknowledge v).reads = s.reads := by unfold State.acknowledge; split <;> rfl
@[simp] theorem State.acknowledge_width (v : Word) : (s.acknowledge v).width = s.width := by unfold State.acknowledge; split <;> rfl
@[simp] theorem State.acknowledge_kRetry (v : Word) : (s.acknowledge v).kRetry = s.kRetry := by unfold State.acknowledge; split <;> rfl
@[simp] theorem State.acknowledge_nlimb (v : Word) : (s.acknowledge v).nlimb = s.nlimb := by unfold State.acknowledge; split <;> rfl

/-! `State.dismiss` -/

@[simp] theorem State.dismiss_cmd (v : Word) : (s.dismiss v).cmd = s.cmd := by unfold State.dismiss; split <;> rfl
@[simp] theorem State.dismiss_phase (v : Word) : (s.dismiss v).phase = if v.getLsbD 1 ∧ s.phase = .done then .idle else s.phase := by unfold State.dismiss; split <;> rfl
@[simp] theorem State.dismiss_ovr (v : Word) : (s.dismiss v).ovr = s.ovr := by unfold State.dismiss; split <;> rfl
@[simp] theorem State.dismiss_verdict (v : Word) : (s.dismiss v).verdict = s.verdict := by unfold State.dismiss; split <;> rfl
@[simp] theorem State.dismiss_errcode (v : Word) : (s.dismiss v).errcode = s.errcode := by unfold State.dismiss; split <;> rfl
@[simp] theorem State.dismiss_ieDone (v : Word) : (s.dismiss v).ieDone = s.ieDone := by unfold State.dismiss; split <;> rfl
@[simp] theorem State.dismiss_ieErr (v : Word) : (s.dismiss v).ieErr = s.ieErr := by unfold State.dismiss; split <;> rfl
@[simp] theorem State.dismiss_cap (v : Word) : (s.dismiss v).cap = s.cap := by unfold State.dismiss; split <;> rfl
@[simp] theorem State.dismiss_N (v : Word) : (s.dismiss v).N = s.N := by unfold State.dismiss; split <;> rfl
@[simp] theorem State.dismiss_A (v : Word) : (s.dismiss v).A = s.A := by unfold State.dismiss; split <;> rfl
@[simp] theorem State.dismiss_B (v : Word) : (s.dismiss v).B = s.B := by unfold State.dismiss; split <;> rfl
@[simp] theorem State.dismiss_R (v : Word) : (s.dismiss v).R = s.R := by unfold State.dismiss; split <;> rfl
@[simp] theorem State.dismiss_T (v : Word) : (s.dismiss v).T = s.T := by unfold State.dismiss; split <;> rfl
@[simp] theorem State.dismiss_S (v : Word) : (s.dismiss v).S = s.S := by unfold State.dismiss; split <;> rfl
@[simp] theorem State.dismiss_entropy (v : Word) : (s.dismiss v).entropy = s.entropy := by unfold State.dismiss; split <;> rfl
@[simp] theorem State.dismiss_abandoned (v : Word) : (s.dismiss v).abandoned = s.abandoned := by unfold State.dismiss; split <;> rfl
@[simp] theorem State.dismiss_agenda (v : Word) : (s.dismiss v).agenda = s.agenda := by unfold State.dismiss; split <;> rfl
@[simp] theorem State.dismiss_history (v : Word) : (s.dismiss v).history = s.history := by unfold State.dismiss; split <;> rfl
@[simp] theorem State.dismiss_reads (v : Word) : (s.dismiss v).reads = s.reads := by unfold State.dismiss; split <;> rfl
@[simp] theorem State.dismiss_width (v : Word) : (s.dismiss v).width = s.width := by unfold State.dismiss; split <;> rfl
@[simp] theorem State.dismiss_kRetry (v : Word) : (s.dismiss v).kRetry = s.kRetry := by unfold State.dismiss; split <;> rfl
@[simp] theorem State.dismiss_nlimb (v : Word) : (s.dismiss v).nlimb = s.nlimb := by unfold State.dismiss; split <;> rfl

/-! `State.clearOvr` -/

@[simp] theorem State.clearOvr_cmd (v : Word) : (s.clearOvr v).cmd = s.cmd := by unfold State.clearOvr; split <;> rfl
@[simp] theorem State.clearOvr_phase (v : Word) : (s.clearOvr v).phase = s.phase := by unfold State.clearOvr; split <;> rfl
@[simp] theorem State.clearOvr_ovr (v : Word) : (s.clearOvr v).ovr = if v.getLsbD 3 then false else s.ovr := by unfold State.clearOvr; split <;> rfl
@[simp] theorem State.clearOvr_verdict (v : Word) : (s.clearOvr v).verdict = s.verdict := by unfold State.clearOvr; split <;> rfl
@[simp] theorem State.clearOvr_errcode (v : Word) : (s.clearOvr v).errcode = s.errcode := by unfold State.clearOvr; split <;> rfl
@[simp] theorem State.clearOvr_ieDone (v : Word) : (s.clearOvr v).ieDone = s.ieDone := by unfold State.clearOvr; split <;> rfl
@[simp] theorem State.clearOvr_ieErr (v : Word) : (s.clearOvr v).ieErr = s.ieErr := by unfold State.clearOvr; split <;> rfl
@[simp] theorem State.clearOvr_cap (v : Word) : (s.clearOvr v).cap = s.cap := by unfold State.clearOvr; split <;> rfl
@[simp] theorem State.clearOvr_N (v : Word) : (s.clearOvr v).N = s.N := by unfold State.clearOvr; split <;> rfl
@[simp] theorem State.clearOvr_A (v : Word) : (s.clearOvr v).A = s.A := by unfold State.clearOvr; split <;> rfl
@[simp] theorem State.clearOvr_B (v : Word) : (s.clearOvr v).B = s.B := by unfold State.clearOvr; split <;> rfl
@[simp] theorem State.clearOvr_R (v : Word) : (s.clearOvr v).R = s.R := by unfold State.clearOvr; split <;> rfl
@[simp] theorem State.clearOvr_T (v : Word) : (s.clearOvr v).T = s.T := by unfold State.clearOvr; split <;> rfl
@[simp] theorem State.clearOvr_S (v : Word) : (s.clearOvr v).S = s.S := by unfold State.clearOvr; split <;> rfl
@[simp] theorem State.clearOvr_entropy (v : Word) : (s.clearOvr v).entropy = s.entropy := by unfold State.clearOvr; split <;> rfl
@[simp] theorem State.clearOvr_abandoned (v : Word) : (s.clearOvr v).abandoned = s.abandoned := by unfold State.clearOvr; split <;> rfl
@[simp] theorem State.clearOvr_agenda (v : Word) : (s.clearOvr v).agenda = s.agenda := by unfold State.clearOvr; split <;> rfl
@[simp] theorem State.clearOvr_history (v : Word) : (s.clearOvr v).history = s.history := by unfold State.clearOvr; split <;> rfl
@[simp] theorem State.clearOvr_reads (v : Word) : (s.clearOvr v).reads = s.reads := by unfold State.clearOvr; split <;> rfl
@[simp] theorem State.clearOvr_width (v : Word) : (s.clearOvr v).width = s.width := by unfold State.clearOvr; split <;> rfl
@[simp] theorem State.clearOvr_kRetry (v : Word) : (s.clearOvr v).kRetry = s.kRetry := by unfold State.clearOvr; split <;> rfl
@[simp] theorem State.clearOvr_nlimb (v : Word) : (s.clearOvr v).nlimb = s.nlimb := by unfold State.clearOvr; split <;> rfl

/-! `State.setReg` -/

@[simp] theorem State.setReg_cmd (x : DataReg) (v : Nat) : (s.setReg x v).cmd = s.cmd := by cases x <;> rfl
@[simp] theorem State.setReg_phase (x : DataReg) (v : Nat) : (s.setReg x v).phase = s.phase := by cases x <;> rfl
@[simp] theorem State.setReg_ovr (x : DataReg) (v : Nat) : (s.setReg x v).ovr = s.ovr := by cases x <;> rfl
@[simp] theorem State.setReg_verdict (x : DataReg) (v : Nat) : (s.setReg x v).verdict = s.verdict := by cases x <;> rfl
@[simp] theorem State.setReg_errcode (x : DataReg) (v : Nat) : (s.setReg x v).errcode = s.errcode := by cases x <;> rfl
@[simp] theorem State.setReg_ieDone (x : DataReg) (v : Nat) : (s.setReg x v).ieDone = s.ieDone := by cases x <;> rfl
@[simp] theorem State.setReg_ieErr (x : DataReg) (v : Nat) : (s.setReg x v).ieErr = s.ieErr := by cases x <;> rfl
@[simp] theorem State.setReg_cap (x : DataReg) (v : Nat) : (s.setReg x v).cap = s.cap := by cases x <;> rfl
@[simp] theorem State.setReg_N (x : DataReg) (v : Nat) : (s.setReg x v).N = if x = .N then v else s.N := by cases x <;> rfl
@[simp] theorem State.setReg_A (x : DataReg) (v : Nat) : (s.setReg x v).A = if x = .A then v else s.A := by cases x <;> rfl
@[simp] theorem State.setReg_B (x : DataReg) (v : Nat) : (s.setReg x v).B = if x = .B then v else s.B := by cases x <;> rfl
@[simp] theorem State.setReg_R (x : DataReg) (v : Nat) : (s.setReg x v).R = if x = .R then v else s.R := by cases x <;> rfl
@[simp] theorem State.setReg_T (x : DataReg) (v : Nat) : (s.setReg x v).T = if x = .T then v else s.T := by cases x <;> rfl
@[simp] theorem State.setReg_S (x : DataReg) (v : Nat) : (s.setReg x v).S = if x = .S then v else s.S := by cases x <;> rfl
@[simp] theorem State.setReg_entropy (x : DataReg) (v : Nat) : (s.setReg x v).entropy = s.entropy := by cases x <;> rfl
@[simp] theorem State.setReg_abandoned (x : DataReg) (v : Nat) : (s.setReg x v).abandoned = s.abandoned := by cases x <;> rfl
@[simp] theorem State.setReg_agenda (x : DataReg) (v : Nat) : (s.setReg x v).agenda = s.agenda := by cases x <;> rfl
@[simp] theorem State.setReg_history (x : DataReg) (v : Nat) : (s.setReg x v).history = s.history := by cases x <;> rfl
@[simp] theorem State.setReg_reads (x : DataReg) (v : Nat) : (s.setReg x v).reads = s.reads := by cases x <;> rfl
@[simp] theorem State.setReg_width (x : DataReg) (v : Nat) : (s.setReg x v).width = s.width := by cases x <;> rfl
@[simp] theorem State.setReg_kRetry (x : DataReg) (v : Nat) : (s.setReg x v).kRetry = s.kRetry := by cases x <;> rfl
@[simp] theorem State.setReg_nlimb (x : DataReg) (v : Nat) : (s.setReg x v).nlimb = s.nlimb := by cases x <;> rfl

/-- Reading a register after writing a register. -/
@[simp] theorem State.reg_setReg (x y : DataReg) (v : Nat) : (s.setReg x v).reg y = if y = x then v else s.reg y := by
  cases x <;> cases y <;> rfl

end Sys2Proof.Machine
end

