-- ==== Sys2Proof/Laws/Exec.lean ====
section
/-! SUPPORT. What the execution frame, the port checks and the agents' moves can do, said once: one inversion lemma per shared
operation. -/

namespace Sys2Proof.Machine

/-- Every meaning is the frame around its body. -/
theorem exec_eq_runFrame (i : Instr) (s : State) : exec i s = runFrame s (bodyOf i s) := by cases i <;> rfl

/-- The frame always answers a next state, in one of three ways: completion, trap entry, or a hold with nothing changed. -/
theorem runFrame_cases {s t : State} {body : Body} (h : runFrame s body = .next t) :
    (∃ res p, body ⟨s.entropy, []⟩ = .ok res p ∧ t = (s.spend p).complete res) ∨
    (∃ k p, body ⟨s.entropy, []⟩ = .raise k p ∧ t = (s.spend p).trapEntry k) ∨
    (∃ p, body ⟨s.entropy, []⟩ = .wait p ∧ t = s) := by
  unfold runFrame at h
  split at h
  · next res p e => exact .inl ⟨res, p, e, by simpa using h.symm⟩
  · next k p e => exact .inr (.inl ⟨k, p, e, by simpa using h.symm⟩)
  · next p e => exact .inr (.inr ⟨p, e, by simpa using h.symm⟩)

/-- A body that reaches `done` completes. -/
theorem runFrame_ok {s : State} {body : Body} {res : Result} {p : Port} (h : body ⟨s.entropy, []⟩ = .ok res p) :
    runFrame s body = .next ((s.spend p).complete res) := by simp [runFrame, h]

/-- A body that raises enters the trap. -/
theorem runFrame_raise {s : State} {body : Body} {k : Failure} {p : Port} (h : body ⟨s.entropy, []⟩ = .raise k p) :
    runFrame s body = .next ((s.spend p).trapEntry k) := by simp [runFrame, h]

/-- A body that holds changes nothing. -/
theorem runFrame_wait {s : State} {body : Body} {p : Port} (h : body ⟨s.entropy, []⟩ = .wait p) :
    runFrame s body = .next s := by simp [runFrame, h]

/-- The frame answers a next state. -/
theorem runFrame_total (s : State) (body : Body) : ∃ t, runFrame s body = .next t := by
  unfold runFrame; split <;> exact ⟨_, rfl⟩

/-- The three ways a command can end or hold. -/
theorem exec_cases {i : Instr} {s t : State} (h : exec i s = .next t) :
    (∃ res p, bodyOf i s ⟨s.entropy, []⟩ = .ok res p ∧ t = (s.spend p).complete res) ∨
    (∃ k p, bodyOf i s ⟨s.entropy, []⟩ = .raise k p ∧ t = (s.spend p).trapEntry k) ∨
    (∃ p, bodyOf i s ⟨s.entropy, []⟩ = .wait p ∧ t = s) :=
  runFrame_cases (exec_eq_runFrame i s ▸ h)

/-- Every command answers a next state. -/
theorem exec_total (i : Instr) (s : State) : ∃ t, exec i s = .next t := by
  rw [exec_eq_runFrame]; exact runFrame_total _ _

/-- An access the port can carry is performed. -/
theorem onPort_of_word {off : Nat} (t : State) (h4 : off % 4 = 0) (hi : off ≤ 0xFFC) : onPort off t = .next t := by
  simp [onPort, h4, Nat.not_lt.2 hi]

/-- An access that is performed is one the port can carry. -/
theorem onPort_cases {off : Nat} {t u : State} (h : onPort off t = .next u) : u = t ∧ off % 4 = 0 ∧ off ≤ 0xFFC := by
  unfold onPort at h
  split at h
  · cases h
  · split at h
    · cases h
    · exact ⟨by simpa using h.symm, by omega, by omega⟩

/-- The sequencer's step: not enabled, an illegal word, or a command. -/
theorem sequencerStep_cases {s t : State} (h : sequencerStep s = .next t) :
    (s.phase ≠ .busy ∧ t = s) ∨
    (s.phase = .busy ∧ legal s.cmd = false ∧ t = s.trapEntry .illegalCommand) ∨
    (∃ i, s.phase = .busy ∧ decode s.cmd = .ok i ∧ exec i s = .next t) := by
  unfold sequencerStep at h
  split at h
  · next hb =>
    split at h
    · next i e => exact .inr (.inr ⟨i, hb, e, h⟩)
    · next e => exact .inr (.inl ⟨hb, by simp [legal, e, Except.toBool], by simpa using h.symm⟩)
  · next hb => exact .inl ⟨hb, by simpa using h.symm⟩

/-- What an entropy draw does: it holds, raises EntropyRange, or has the answer; the draw is recorded with its answer. -/
theorem entropyDraw_cases (w lo hi : Nat) (p : Port) :
    (p.answers = [] ∧ entropyDraw w lo hi p = .wait p) ∨
    (∃ a rest, p.answers = a :: rest ∧ (a % 2 ^ w < lo ∨ hi < a % 2 ^ w) ∧
      entropyDraw w lo hi p = .raise .entropyRange ⟨rest, ⟨lo, hi, a % 2 ^ w⟩ :: p.drawn⟩) ∨
    (∃ a rest, p.answers = a :: rest ∧ lo ≤ a % 2 ^ w ∧ a % 2 ^ w ≤ hi ∧
      entropyDraw w lo hi p = .ok (a % 2 ^ w) ⟨rest, ⟨lo, hi, a % 2 ^ w⟩ :: p.drawn⟩) := by
  unfold entropyDraw
  cases h : p.answers with
  | nil => exact .inl ⟨rfl, rfl⟩
  | cons a rest =>
    by_cases c : a % 2 ^ w < lo ∨ hi < a % 2 ^ w
    · exact .inr (.inl ⟨a, rest, rfl, c, by simp [c]⟩)
    · exact .inr (.inr ⟨a, rest, rfl, by omega, by omega, by simp [c]⟩)

/-- A draw whose answer is in range. -/
theorem entropyDraw_in_range {w lo hi a : Nat} {rest : List Nat} (drawn : List Draw) (h1 : lo ≤ a % 2 ^ w)
    (h2 : a % 2 ^ w ≤ hi) :
    entropyDraw w lo hi ⟨a :: rest, drawn⟩ = .ok (a % 2 ^ w) ⟨rest, ⟨lo, hi, a % 2 ^ w⟩ :: drawn⟩ := by
  simp [entropyDraw, Nat.not_lt.2 h1, Nat.not_lt.2 h2]

/-- A draw whose answer is out of range. -/
theorem entropyDraw_out_of_range {w lo hi a : Nat} {rest : List Nat} (drawn : List Draw)
    (h : a % 2 ^ w < lo ∨ hi < a % 2 ^ w) :
    entropyDraw w lo hi ⟨a :: rest, drawn⟩ = .raise .entropyRange ⟨rest, ⟨lo, hi, a % 2 ^ w⟩ :: drawn⟩ := by
  simp [entropyDraw, h]

@[simp] theorem Ran.bind_ok {α β : Type} (a : α) (p : Port) (f : α → Port → Ran β) : (Ran.ok a p).bind f = f a p := rfl
@[simp] theorem Ran.bind_raise {α β : Type} (k : Failure) (p : Port) (f : α → Port → Ran β) :
    (Ran.raise k p).bind f = .raise k p := rfl
@[simp] theorem Ran.bind_wait {α β : Type} (p : Port) (f : α → Port → Ran β) : (Ran.wait p).bind f = .wait p := rfl

end Sys2Proof.Machine
end

