-- ==== Sys2Proof/Laws/PerInstr.lean ====
section
/-! SUPPORT. One statement about every command as syntax: the fields of its word (R100, R107). -/

namespace Sys2Proof

/-- A bit of a word, as a number. -/
theorem bit_toNat (w : Word) (i : Nat) : (w.getLsbD i).toNat = w.toNat / 2 ^ i % 2 := by
  rw [BitVec.getLsbD, Nat.testBit_eq_decide_div_mod_eq]
  rcases Nat.mod_two_eq_zero_or_one (w.toNat / 2 ^ i) with h | h <;> rw [h] <;> rfl

/-- The fields of R100 as one word carries them: bit 31, OP, AUTO, ROUNDS, LEN. -/
def carries (w : Word) (op : Nat) (auto : Bool) (rounds len : Nat) : Prop :=
  w.getLsbD 31 = false ∧ opOf w = op ∧ autoOf w = auto ∧ roundsOfWord w = rounds ∧ lenOf w = len

/-- A word laid out from fields within their widths carries them. -/
theorem layOut_carries {op rounds len : Nat} (auto : Bool) (h1 : op ≤ 31) (h2 : rounds ≤ 4095) (h3 : len ≤ 8191) :
    carries (layOut op auto.toNat rounds len) op auto rounds len := by
  have ha : auto.toNat < 2 := Bool.toNat_lt auto
  have hx : (layOut op auto.toNat rounds len).toNat = op + auto.toNat * 2 ^ 5 + rounds * 2 ^ 6 + len * 2 ^ 18 := by
    unfold layOut; rw [BitVec.toNat_ofNat]; omega
  generalize layOut op auto.toNat rounds len = w at *
  have b31 := bit_toNat w 31
  have b5 := bit_toNat w 5
  refine ⟨?_, ?_, ?_, ?_, ?_⟩
  · have : (w.getLsbD 31).toNat = 0 := by omega
    simpa using this
  · simp only [opOf, bits, BitVec.extractLsb'_toNat, hx, Nat.shiftRight_eq_div_pow]; omega
  · have : (w.getLsbD 5).toNat = auto.toNat := by omega
    show w.getLsbD 5 = auto
    revert this; cases w.getLsbD 5 <;> cases auto <;> simp
  · simp only [roundsOfWord, bits, BitVec.extractLsb'_toNat, hx, Nat.shiftRight_eq_div_pow]; omega
  · simp only [lenOf, bits, BitVec.extractLsb'_toNat, hx, Nat.shiftRight_eq_div_pow]; omega

namespace Laws.Fields

/-- The word of a well-formed command carries its row's OP and AUTO and the command's own immediates, and zeros in the
fields that its format does not use. -/
def Statement (i : Instr) : Prop :=
  i.wellFormed = true →
  match i with
  | .nop => carries (encode i) 0x00 false 0 0
  | .modmul => carries (encode i) 0x01 false 0 0
  | .modexp => carries (encode i) 0x02 false 0 0
  | .modinv => carries (encode i) 0x03 false 0 0
  | .gcd => carries (encode i) 0x04 false 0 0
  | .decomp => carries (encode i) 0x05 false 0 0
  | .prefilt => carries (encode i) 0x06 false 0 0
  | .mrround => carries (encode i) 0x07 false 0 0
  | .isprimeRounds rounds => carries (encode i) 0x08 false rounds 0
  | .isprimeAuto => carries (encode i) 0x08 true 0 0
  | .randodd len => carries (encode i) 0x09 false 0 len
  | .genprimeRounds len rounds => carries (encode i) 0x0A false rounds len
  | .genprimeAuto len => carries (encode i) 0x0A true 0 len

theorem nop : Statement .nop := fun _ => layOut_carries false (by omega) (by omega) (by omega)
theorem modmul : Statement .modmul := fun _ => layOut_carries false (by omega) (by omega) (by omega)
theorem modexp : Statement .modexp := fun _ => layOut_carries false (by omega) (by omega) (by omega)
theorem modinv : Statement .modinv := fun _ => layOut_carries false (by omega) (by omega) (by omega)
theorem gcd : Statement .gcd := fun _ => layOut_carries false (by omega) (by omega) (by omega)
theorem decomp : Statement .decomp := fun _ => layOut_carries false (by omega) (by omega) (by omega)
theorem prefilt : Statement .prefilt := fun _ => layOut_carries false (by omega) (by omega) (by omega)
theorem mrround : Statement .mrround := fun _ => layOut_carries false (by omega) (by omega) (by omega)
theorem isprimeRounds (rounds : Nat) : Statement (.isprimeRounds rounds) := fun h =>
  layOut_carries false (by omega) (of_decide_eq_true h) (by omega)
theorem isprimeAuto : Statement .isprimeAuto := fun _ => layOut_carries true (by omega) (by omega) (by omega)
theorem randodd (len : Nat) : Statement (.randodd len) := fun h =>
  layOut_carries false (by omega) (by omega) (of_decide_eq_true h)
theorem genprimeRounds (len rounds : Nat) : Statement (.genprimeRounds len rounds) := fun h => by
  obtain ⟨h1, h2⟩ := (Bool.and_eq_true _ _).mp h
  exact layOut_carries false (by omega) (of_decide_eq_true h2) (of_decide_eq_true h1)
theorem genprimeAuto (len : Nat) : Statement (.genprimeAuto len) := fun h =>
  layOut_carries true (by omega) (by omega) (of_decide_eq_true h)

end Laws.Fields

end Sys2Proof
end

