-- ==== Sys2Proof/Laws/Port.lean ====
section
/-! SUPPORT. A run only moves the entropy port forward: it takes answers from the front, records each draw with its answer, and
holds only when the answers are used up. -/

namespace Sys2Proof.Machine

/-- From `p` to `q` the answers `taken` were consumed, in order, by the draws `ds`, oldest first. -/
def Port.ranBy (w : Nat) (p q : Port) (taken : List Nat) (ds : List Draw) : Prop :=
  p.answers = taken ++ q.answers ∧ q.drawn = ds.reverse ++ p.drawn ∧ ds.map Draw.value = taken.map (· % 2 ^ w)

theorem Port.ranBy_refl (w : Nat) (p : Port) : p.ranBy w p [] [] := ⟨rfl, rfl, rfl⟩

theorem Port.ranBy_trans {w : Nat} {p q r : Port} {t₁ t₂ : List Nat} {d₁ d₂ : List Draw} (h₁ : p.ranBy w q t₁ d₁)
    (h₂ : q.ranBy w r t₂ d₂) : p.ranBy w r (t₁ ++ t₂) (d₁ ++ d₂) := by
  obtain ⟨a, b, c⟩ := h₁; obtain ⟨d, e, f⟩ := h₂
  exact ⟨by rw [a, d, List.append_assoc], by rw [e, b]; simp, by simp [c, f]⟩

/-- A run from the port `p` makes at most `n` draws, each with the property `P`; where it holds, it has used up the answers and
has a draw to make. -/
def Ran.moves {α : Type} (w n : Nat) (P : Draw → Prop) (p : Port) (x : Ran α) : Prop :=
  ∃ taken ds, p.ranBy w x.port taken ds ∧ taken.length ≤ n ∧ (∀ d ∈ ds, P d) ∧
    ∀ q, x = .wait q → q.answers = [] ∧ taken.length < n

theorem Ran.moves_mono {α : Type} {w m n : Nat} {P : Draw → Prop} {p : Port} {x : Ran α} (h : x.moves w m P p) (le : m ≤ n) :
    x.moves w n P p := by
  obtain ⟨t, ds, a, b, c, d⟩ := h
  exact ⟨t, ds, a, by omega, c, fun q e => ⟨(d q e).1, by have := (d q e).2; omega⟩⟩

/-- A value without a draw. -/
theorem Ran.moves_ok {α : Type} (w n : Nat) (P : Draw → Prop) (p : Port) (a : α) : (Ran.ok a p).moves w n P p :=
  ⟨[], [], p.ranBy_refl w, by simp, by simp, fun q e => by cases e⟩

/-- A failure without a draw. -/
theorem Ran.moves_raise {α : Type} (w n : Nat) (P : Draw → Prop) (p : Port) (k : Failure) :
    (Ran.raise k p : Ran α).moves w n P p :=
  ⟨[], [], p.ranBy_refl w, by simp, by simp, fun q e => by cases e⟩

/-- A run of a part and then the rest. -/
theorem Ran.moves_bind {α β : Type} {w m n : Nat} {P : Draw → Prop} {p : Port} {x : Ran α} {f : α → Port → Ran β}
    (hx : x.moves w m P p) (hf : ∀ a q, x = .ok a q → (f a q).moves w n P q) : (x.bind f).moves w (m + n) P p := by
  obtain ⟨t₁, d₁, h₁, l₁, r₁, s₁⟩ := hx
  cases x with
  | ok a q =>
    obtain ⟨t₂, d₂, h₂, l₂, r₂, s₂⟩ := hf a q rfl
    refine ⟨t₁ ++ t₂, d₁ ++ d₂, Port.ranBy_trans h₁ h₂, by simp; omega, fun d hd => ?_, fun q' e => ?_⟩
    · rcases List.mem_append.1 hd with h | h
      · exact r₁ d h
      · exact r₂ d h
    · obtain ⟨e₁, e₂⟩ := s₂ q' e
      exact ⟨e₁, by rw [List.length_append]; omega⟩
  | raise k q => exact ⟨t₁, d₁, h₁, by omega, r₁, fun q' e => by cases e⟩
  | wait q =>
    have := s₁ q rfl
    exact ⟨t₁, d₁, h₁, by omega, r₁, fun q' e => by cases e; exact ⟨this.1, by omega⟩⟩

/-- A draw takes one answer or none, and declares its range. -/
theorem entropyDraw_moves (w lo hi : Nat) (P : Draw → Prop) (hP : ∀ v, P ⟨lo, hi, v⟩) (p : Port) :
    (entropyDraw w lo hi p).moves w 1 P p := by
  rcases entropyDraw_cases w lo hi p with ⟨ha, e⟩ | ⟨a, rest, ha, _, e⟩ | ⟨a, rest, ha, _, _, e⟩ <;> rw [e]
  · exact ⟨[], [], p.ranBy_refl w, by simp, by simp, fun q e => by cases e; exact ⟨ha, by simp⟩⟩
  all_goals
    exact ⟨[a], [⟨lo, hi, a % 2 ^ w⟩], ⟨by simp [Ran.port, ha], by simp [Ran.port], by simp⟩, by simp, by simp [hP],
      fun q e => by cases e⟩

end Sys2Proof.Machine
end

