-- ==== Sys2Proof/Laws/Step.lean ====
section
/-! SUPPORT. What a step can do, said once: one case for each agent of R44. -/

namespace Sys2Proof.Machine

/-- A step that answers a next state is a host read, a host write, the sequencer's move, an answer, a withdrawal, or a reset;
the move is taken off the agenda first. -/
theorem step_cases {s t : State} (h : step s = .next t) :
    (∃ off rest, s.agenda = .hostRead off :: rest ∧ off % 4 = 0 ∧ off ≤ 0xFFC ∧
      t = ({ s with agenda := rest } : State).readSlot off (slotAt s.nlimb off)) ∨
    (∃ off v rest, s.agenda = .hostWrite off v :: rest ∧ off % 4 = 0 ∧ off ≤ 0xFFC ∧
      t = ({ s with agenda := rest } : State).writeSlot off (slotAt s.nlimb off) v) ∨
    (∃ rest, (s.agenda = .sequencer :: rest ∨ (s.agenda = [] ∧ rest = [])) ∧
      sequencerStep { s with agenda := rest } = .next t) ∨
    (∃ v rest, s.agenda = .answer v :: rest ∧ t = ({ s with agenda := rest } : State).answer v) ∨
    (∃ rest, s.agenda = .withdraw :: rest ∧ t = ({ s with agenda := rest } : State).withdraw) ∨
    (∃ k rest, s.agenda = .rst k :: rest ∧ t = ({ s with agenda := rest } : State).assertRst k) := by
  unfold step advance at h
  split at h
  · next ha =>
    refine .inr (.inr (.inl ⟨[], .inr ⟨ha, rfl⟩, ?_⟩))
    obtain ⟨⟩ := s; simp only at ha; subst ha; exact h
  · next e rest ha =>
    cases e <;> simp only [perform] at h
    · obtain ⟨h1, h2, h3⟩ := onPort_cases h; exact .inl ⟨_, _, ha, h2, h3, h1⟩
    · obtain ⟨h1, h2, h3⟩ := onPort_cases h; exact .inr (.inl ⟨_, _, _, ha, h2, h3, h1⟩)
    · exact .inr (.inr (.inl ⟨_, .inl ha, h⟩))
    · cases h; exact .inr (.inr (.inr (.inl ⟨_, _, ha, rfl⟩)))
    · cases h; exact .inr (.inr (.inr (.inr (.inl ⟨_, ha, rfl⟩))))
    · cases h; exact .inr (.inr (.inr (.inr (.inr ⟨_, _, ha, rfl⟩))))

/-- A move that answers a next state, whatever the agenda: one case for each agent. -/
theorem perform_cases {e : Event} {s t : State} (h : perform e s = .next t) :
    (∃ off, e = .hostRead off ∧ off % 4 = 0 ∧ off ≤ 0xFFC ∧ t = s.readSlot off (slotAt s.nlimb off)) ∨
    (∃ off v, e = .hostWrite off v ∧ off % 4 = 0 ∧ off ≤ 0xFFC ∧ t = s.writeSlot off (slotAt s.nlimb off) v) ∨
    (e = .sequencer ∧ sequencerStep s = .next t) ∨
    (∃ v, e = .answer v ∧ t = s.answer v) ∨
    (e = .withdraw ∧ t = s.withdraw) ∨
    (∃ k, e = .rst k ∧ t = s.assertRst k) := by
  cases e <;> simp only [perform] at h
  · obtain ⟨h1, h2, h3⟩ := onPort_cases h; exact .inl ⟨_, rfl, h2, h3, h1⟩
  · obtain ⟨h1, h2, h3⟩ := onPort_cases h; exact .inr (.inl ⟨_, _, rfl, h2, h3, h1⟩)
  · exact .inr (.inr (.inl ⟨rfl, h⟩))
  · cases h; exact .inr (.inr (.inr (.inl ⟨_, rfl, rfl⟩)))
  · cases h; exact .inr (.inr (.inr (.inr (.inl ⟨rfl, rfl⟩))))
  · cases h; exact .inr (.inr (.inr (.inr (.inr ⟨_, rfl, rfl⟩))))

/-- No body reads the entropy script: it is given the port. -/
theorem bodyOf_entropy (i : Instr) (s : State) (answers : List Nat) :
    bodyOf i { s with entropy := answers } = bodyOf i s := by cases i <;> rfl

/-- What reset abandons in BUSY is the command's run on its first `k` answers. -/
theorem abandonedRun_of_busy {s : State} {i : Instr} (k : Nat) (hb : s.phase = .busy) (hd : decode s.cmd = .ok i) :
    abandonedRun k s = some (bodyOf i s ⟨s.entropy.take k, []⟩) := by simp [abandonedRun, hb, hd]

/-- Outside BUSY, and with an illegal word, reset abandons no run. -/
theorem abandonedRun_of_idle {s : State} (k : Nat) (h : s.phase ≠ .busy ∨ legal s.cmd = false) : abandonedRun k s = none := by
  unfold abandonedRun
  rcases h with h | h
  · exact if_neg h
  · cases hd : decode s.cmd with
    | ok i => simp [legal, hd, Except.toBool] at h
    | error e => simp

end Sys2Proof.Machine
end

