-- ==== Sys2Proof/Laws/Trials.lean ====
section
/-! SUPPORT. The procedures that the drawing commands share, said once: a candidate (R160), the rounds and the whole test (R137),
one trial of the prime search (R171). -/

namespace Sys2Proof.Machine

/-- The fast rejection does not decide an odd number above 2. -/
theorem prefilter_of_odd {n : Nat} (h : 3 ≤ n) (odd : n % 2 = 1) : prefilter n = .undecided := by
  unfold prefilter; rw [if_neg (by omega), if_neg (by omega), if_neg (by omega)]

/-- All that a candidate's draw can do. -/
theorem randomOdd_cases (w len : Nat) (p : Port) :
    ((len < 2 ∨ w < len) ∧ randomOdd w len p = .raise .invalidInput p) ∨
    (2 ≤ len ∧ len ≤ w ∧
      ((p.answers = [] ∧ randomOdd w len p = .wait p) ∨
       (∃ a rest, p.answers = a :: rest ∧ 2 ^ len ≤ a % 2 ^ w ∧
         randomOdd w len p = .raise .entropyRange ⟨rest, ⟨0, 2 ^ len - 1, a % 2 ^ w⟩ :: p.drawn⟩) ∨
       (∃ a rest, p.answers = a :: rest ∧ a % 2 ^ w < 2 ^ len ∧
         randomOdd w len p =
           .ok (candidateOf len (a % 2 ^ w)) ⟨rest, ⟨0, 2 ^ len - 1, a % 2 ^ w⟩ :: p.drawn⟩))) := by
  have pos : 0 < 2 ^ len := Nat.two_pow_pos len
  unfold randomOdd
  by_cases h2 : len < 2
  · exact .inl ⟨.inl h2, if_pos h2⟩
  by_cases hw : len > w
  · exact .inl ⟨.inr hw, by rw [if_neg h2, if_pos hw]⟩
  rw [if_neg h2, if_neg hw]
  refine .inr ⟨by omega, by omega, ?_⟩
  rcases entropyDraw_cases w 0 (2 ^ len - 1) p with ⟨ha, e⟩ | ⟨a, rest, ha, ho, e⟩ | ⟨a, rest, ha, _, ho, e⟩ <;> rw [e]
  · exact .inl ⟨ha, rfl⟩
  · exact .inr (.inl ⟨a, rest, ha, by omega, rfl⟩)
  · exact .inr (.inr ⟨a, rest, ha, by omega, rfl⟩)

/-- All that the whole test can do before its rounds: a verdict, the empty witness range, or the rounds. -/
theorem isProbablePrime_cases (w n : Nat) (rc : RoundCount) (p : Port) :
    (prefilter n ≠ .undecided ∧ isProbablePrime w n rc p = .ok (prefilter n) p) ∨
    (n = 3 ∧ isProbablePrime w n rc p = .raise .invalidInput p) ∨
    (5 ≤ n ∧ n % 2 = 1 ∧ isProbablePrime w n rc p = runRounds w n (roundsOf rc n) p) := by
  unfold isProbablePrime
  by_cases h : prefilter n ≠ .undecided
  · exact .inl ⟨h, if_pos h⟩
  have odd : 2 < n ∧ n % 2 = 1 := by
    by_contra hn
    apply h
    unfold prefilter
    split_ifs
    · decide
    · decide
    · decide
    · omega
  rw [if_neg h]
  by_cases h3 : n - 2 < 2
  · exact .inr (.inl ⟨by omega, if_pos h3⟩)
  · exact .inr (.inr ⟨by omega, odd.2, if_neg h3⟩)

/-- A round whose answer is in range and passes goes on to the next. -/
theorem runRounds_pass {w n k a : Nat} {rest : List Nat} (drawn : List Draw) (h1 : 2 ≤ a % 2 ^ w) (h2 : a % 2 ^ w ≤ n - 2)
    (h : mrRound n (a % 2 ^ w) = .pass) :
    runRounds w n (k + 1) ⟨a :: rest, drawn⟩ = runRounds w n k ⟨rest, ⟨2, n - 2, a % 2 ^ w⟩ :: drawn⟩ := by
  rw [runRounds, entropyDraw_in_range _ h1 h2, Ran.bind_ok, if_neg (by rw [h]; nofun)]

/-- A round whose answer is in range and that gives COMPOSITE ends the test (R140). -/
theorem runRounds_composite {w n k a : Nat} {rest : List Nat} (drawn : List Draw) (h1 : 2 ≤ a % 2 ^ w)
    (h2 : a % 2 ^ w ≤ n - 2) (h : mrRound n (a % 2 ^ w) = .composite) :
    runRounds w n (k + 1) ⟨a :: rest, drawn⟩ = .ok .composite ⟨rest, ⟨2, n - 2, a % 2 ^ w⟩ :: drawn⟩ := by
  rw [runRounds, entropyDraw_in_range _ h1 h2, Ran.bind_ok, if_pos h]

/-- A round whose answer is out of range ends the command with EntropyRange. -/
theorem runRounds_out_of_range {w n k a : Nat} {rest : List Nat} (drawn : List Draw)
    (h : a % 2 ^ w < 2 ∨ n - 2 < a % 2 ^ w) :
    runRounds w n (k + 1) ⟨a :: rest, drawn⟩ = .raise .entropyRange ⟨rest, ⟨2, n - 2, a % 2 ^ w⟩ :: drawn⟩ := by
  rw [runRounds, entropyDraw_out_of_range _ h, Ran.bind_raise]

/-- The rounds make at most one draw each, of range `[2, n - 2]`. -/
theorem runRounds_moves {w n : Nat} {P : Draw → Prop} (hP : ∀ v, P ⟨2, n - 2, v⟩) :
    ∀ k p, (runRounds w n k p).moves w k P p
  | 0, _ => Ran.moves_ok _ _ _ _ _
  | k + 1, p => by
    rw [runRounds, Nat.add_comm]
    refine Ran.moves_bind (entropyDraw_moves w _ _ P hP p) fun a q _ => ?_
    split
    · exact Ran.moves_ok _ _ _ _ _
    · exact runRounds_moves hP k q

/-- The whole test makes at most one draw for each round, and none unless `n >= 5`. -/
theorem isProbablePrime_moves {w n : Nat} {P : Draw → Prop} (rc : RoundCount) (hP : 5 ≤ n → ∀ v, P ⟨2, n - 2, v⟩)
    (p : Port) : (isProbablePrime w n rc p).moves w (roundsOf rc n) P p := by
  rcases isProbablePrime_cases w n rc p with ⟨_, e⟩ | ⟨_, e⟩ | ⟨h5, _, e⟩ <;> rw [e]
  · exact Ran.moves_ok _ _ _ _ _
  · exact Ran.moves_raise _ _ _ _ _
  · exact runRounds_moves (hP h5) _ p

/-- A candidate takes at most one draw, of range `[0, 2^len - 1]`. -/
theorem randomOdd_moves {w len : Nat} {P : Draw → Prop} (hP : 2 ≤ len → len ≤ w → ∀ v, P ⟨0, 2 ^ len - 1, v⟩) (p : Port) :
    (randomOdd w len p).moves w 1 P p := by
  unfold randomOdd
  split
  · exact Ran.moves_raise _ _ _ _ _
  · split
    · exact Ran.moves_raise _ _ _ _ _
    · exact Ran.moves_bind (n := 0) (entropyDraw_moves w _ _ P (hP (by omega) (by omega)) p)
        fun _ _ _ => Ran.moves_ok _ _ _ _ _

end Sys2Proof.Machine
end

