-- ==== Sys2Proof/Laws/Window.lean ====
section
/-! SUPPORT. The register map, region by region (R61 to R64), and what a host write can do, said once. -/

namespace Sys2Proof.Machine

/-- Limb `i` of N stands at 0x200 + 4*i. -/
theorem slotAt_N {n i : Nat} (hn : n ≤ 128) (hi : i < n) : slotAt n (0x200 + 4 * i) = .limb .N i := by
  unfold slotAt limbSlot
  iterate 5 rw [if_neg (by omega)]
  rw [if_pos (by omega), show (0x200 + 4 * i - 0x200) / 4 = i by omega, if_pos hi]

/-- Limb `i` of A stands at 0x400 + 4*i. -/
theorem slotAt_A {n i : Nat} (hn : n ≤ 128) (hi : i < n) : slotAt n (0x400 + 4 * i) = .limb .A i := by
  unfold slotAt limbSlot
  iterate 6 rw [if_neg (by omega)]
  rw [if_pos (by omega), show (0x400 + 4 * i - 0x400) / 4 = i by omega, if_pos hi]

/-- Limb `i` of B stands at 0x600 + 4*i. -/
theorem slotAt_B {n i : Nat} (hn : n ≤ 128) (hi : i < n) : slotAt n (0x600 + 4 * i) = .limb .B i := by
  unfold slotAt limbSlot
  iterate 7 rw [if_neg (by omega)]
  rw [if_pos (by omega), show (0x600 + 4 * i - 0x600) / 4 = i by omega, if_pos hi]

/-- Limb `i` of R stands at 0x800 + 4*i. -/
theorem slotAt_R {n i : Nat} (hn : n ≤ 128) (hi : i < n) : slotAt n (0x800 + 4 * i) = .limb .R i := by
  unfold slotAt limbSlot
  iterate 8 rw [if_neg (by omega)]
  rw [if_pos (by omega), show (0x800 + 4 * i - 0x800) / 4 = i by omega, if_pos hi]

/-- Limb `i` of T stands at 0xA00 + 4*i. -/
theorem slotAt_T {n i : Nat} (hn : n ≤ 128) (hi : i < n) : slotAt n (0xA00 + 4 * i) = .limb .T i := by
  unfold slotAt limbSlot
  iterate 9 rw [if_neg (by omega)]
  rw [if_pos (by omega), show (0xA00 + 4 * i - 0xA00) / 4 = i by omega, if_pos hi]

/-- S stands at 0xC00 (R64). -/
theorem slotAt_S (n : Nat) : slotAt n 0xC00 = .limb .S 0 := rfl

/-- Between CAP and N, and above S, the slots are reserved. -/
theorem slotAt_outside {n off : Nat} (h : (0x00C < off ∧ off < 0x200) ∨ 0xC00 < off) : slotAt n off = .reserved := by
  unfold slotAt
  iterate 4 rw [if_neg (by omega)]
  rcases h with h | h
  · rw [if_pos h.2]
  · iterate 7 rw [if_neg (by omega)]

/-- Above the limbs in use, a slot of a register region is reserved (R62). -/
theorem slotAt_unused {n off : Nat} (h1 : 0x200 ≤ off) (h2 : off < 0xC00) (h : n ≤ off % 0x200 / 4) :
    slotAt n off = .reserved := by
  unfold slotAt limbSlot
  iterate 5 rw [if_neg (by omega)]
  split_ifs <;> first | rfl | omega

/-- A slot of a register region is a limb in use or reserved. -/
theorem limbSlot_cases (n : Nat) (x : DataReg) (i : Nat) :
    (i < n ∧ limbSlot n x i = .limb x i) ∨ limbSlot n x i = .reserved := by
  unfold limbSlot
  split
  · exact .inl ⟨‹_›, rfl⟩
  · exact .inr rfl

/-- The register map as a list of cases. -/
theorem slotAt_cases (n off : Nat) :
    (off = 0x000 ∧ slotAt n off = .cmd) ∨ (off = 0x004 ∧ slotAt n off = .status) ∨
    (off = 0x008 ∧ slotAt n off = .ctrl) ∨ (off = 0x00C ∧ slotAt n off = .cap) ∨ slotAt n off = .reserved ∨
    (off = 0xC00 ∧ slotAt n off = .limb .S 0) ∨
    ∃ x i, i < n ∧ slotAt n off = .limb x i ∧ x ≠ .S ∧ (x.hostWritable = true → 0x200 ≤ off ∧ off < 0x800) := by
  unfold slotAt
  by_cases h0 : off = 0x000
  · exact .inl ⟨h0, if_pos h0⟩
  by_cases h1 : off = 0x004
  · exact .inr (.inl ⟨h1, by rw [if_neg h0, if_pos h1]⟩)
  by_cases h2 : off = 0x008
  · exact .inr (.inr (.inl ⟨h2, by rw [if_neg h0, if_neg h1, if_pos h2]⟩))
  by_cases h3 : off = 0x00C
  · exact .inr (.inr (.inr (.inl ⟨h3, by rw [if_neg h0, if_neg h1, if_neg h2, if_pos h3]⟩)))
  rw [if_neg h0, if_neg h1, if_neg h2, if_neg h3]
  refine .inr (.inr (.inr (.inr ?_)))
  have region (x : DataReg) (i : Nat) (hx : x ≠ .S) (hw : x.hostWritable = true → 0x200 ≤ off ∧ off < 0x800) :
      limbSlot n x i = .reserved ∨ (off = 0xC00 ∧ limbSlot n x i = .limb .S 0) ∨
      ∃ y j, j < n ∧ limbSlot n x i = .limb y j ∧ y ≠ .S ∧ (y.hostWritable = true → 0x200 ≤ off ∧ off < 0x800) := by
    rcases limbSlot_cases n x i with ⟨h, e⟩ | e
    · exact .inr (.inr ⟨x, i, h, e, hx, hw⟩)
    · exact .inl e
  by_cases h4 : off < 0x200
  · rw [if_pos h4]; exact .inl rfl
  by_cases h5 : off < 0x400
  · rw [if_neg h4, if_pos h5]; exact region _ _ nofun fun _ => ⟨by omega, by omega⟩
  by_cases h6 : off < 0x600
  · rw [if_neg h4, if_neg h5, if_pos h6]; exact region _ _ nofun fun _ => ⟨by omega, by omega⟩
  by_cases h7 : off < 0x800
  · rw [if_neg h4, if_neg h5, if_neg h6, if_pos h7]; exact region _ _ nofun fun _ => ⟨by omega, h7⟩
  rw [if_neg h4, if_neg h5, if_neg h6, if_neg h7]
  by_cases h8 : off < 0xA00
  · rw [if_pos h8]; exact region _ _ nofun nofun
  by_cases h9 : off < 0xC00
  · rw [if_neg h8, if_pos h9]; exact region _ _ nofun nofun
  rw [if_neg h8, if_neg h9]
  by_cases hs : off = 0xC00
  · exact .inr (.inl ⟨hs, if_pos hs⟩)
  · rw [if_neg hs]; exact .inl rfl

/-- A slot that is limb `i` of a register has `i` below the limb count, but for S. -/
theorem slotAt_limb {n off i : Nat} {x : DataReg} (h : slotAt n off = .limb x i) : i < n ∨ (x = .S ∧ i = 0) := by
  rcases slotAt_cases n off with ⟨_, e⟩ | ⟨_, e⟩ | ⟨_, e⟩ | ⟨_, e⟩ | e | ⟨_, e⟩ | ⟨y, j, hj, e, _, _⟩ <;> rw [e] at h <;> cases h
  · exact .inr ⟨rfl, rfl⟩
  · exact .inl hj

/-- What a host write inside the window can do: the record only, overrun, CTRL, STATUS, acceptance, or one limb. -/
theorem writeSlot_cases (s : State) (off : Nat) (slot : Slot) (v : Word) :
    s.writeSlot off slot v = s.record (.ignored off v) ∨
    ((s.phase = .busy ∨ (s.phase = .err ∧ slot = .cmd)) ∧ s.writeSlot off slot v = s.overrun off v) ∨
    (slot = .ctrl ∧ s.writeSlot off slot v = s.writeCtrl v) ∨
    (slot = .status ∧ s.phase ≠ .busy ∧ s.writeSlot off slot v = s.clearStatus v) ∨
    (slot = .cmd ∧ (s.phase = .idle ∨ s.phase = .done) ∧ s.writeSlot off slot v = s.accept v) ∨
    (∃ x i, slot = .limb x i ∧ x.hostWritable = true ∧ s.phase ≠ .busy ∧ s.writeSlot off slot v = s.writeLimb x i v) := by
  cases slot with
  | ctrl => exact .inr (.inr (.inl ⟨rfl, rfl⟩))
  | cap => exact .inl rfl
  | reserved => exact .inl rfl
  | status =>
    by_cases h : s.phase = .busy
    · exact .inr (.inl ⟨.inl h, by simp [State.writeSlot, h]⟩)
    · exact .inr (.inr (.inr (.inl ⟨rfl, h, by simp [State.writeSlot, h]⟩)))
  | cmd =>
    cases h : s.phase
    · exact .inr (.inr (.inr (.inr (.inl ⟨rfl, .inl rfl, by simp [State.writeSlot, h]⟩))))
    · exact .inr (.inl ⟨.inl rfl, by simp [State.writeSlot, h]⟩)
    · exact .inr (.inr (.inr (.inr (.inl ⟨rfl, .inr rfl, by simp [State.writeSlot, h]⟩))))
    · exact .inr (.inl ⟨.inr ⟨rfl, rfl⟩, by simp [State.writeSlot, h]⟩)
  | limb x i =>
    cases hx : x.hostWritable
    · exact .inl (by simp [State.writeSlot, hx])
    · by_cases h : s.phase = .busy
      · exact .inr (.inl ⟨.inl h, by simp [State.writeSlot, h, hx]⟩)
      · exact .inr (.inr (.inr (.inr (.inr ⟨x, i, rfl, hx, h, by simp [State.writeSlot, h, hx]⟩))))

/-- The offset of CMD, STATUS or CTRL is fixed by its slot (R61). -/
theorem slotAt_control {n off : Nat} :
    (slotAt n off = .cmd → off = 0x000) ∧ (slotAt n off = .status → off = 0x004) ∧ (slotAt n off = .ctrl → off = 0x008) := by
  rcases slotAt_cases n off with ⟨h, e⟩ | ⟨h, e⟩ | ⟨h, e⟩ | ⟨_, e⟩ | e | ⟨_, e⟩ | ⟨y, j, hj, e, _, _⟩ <;> rw [e] <;> simp [*]

/-- A limb of a register that the host may write stands between 0x200 and 0x7FF (R61, R62). -/
theorem slotAt_writable {n off i : Nat} {x : DataReg} (h : slotAt n off = .limb x i) (hx : x.hostWritable = true) :
    0x200 ≤ off ∧ off < 0x800 := by
  rcases slotAt_cases n off with ⟨_, e⟩ | ⟨_, e⟩ | ⟨_, e⟩ | ⟨_, e⟩ | e | ⟨_, e⟩ | ⟨y, j, hj, e, _, hw⟩ <;> rw [e] at h <;> cases h
  · cases hx
  · exact hw hx

end Sys2Proof.Machine
end

