-- ==== Sys2Proof/Tests/Slice0.lean ====
section
/-! SUPPORT. The model's own tests: well-formedness, decoding from words written out bit by bit, one step per command on the
vectors of spec/95_test_vectors.md, the host port, traps and reset; and, for every statement with hypotheses, a concrete state
and operands that meet them. Expected values are the spec's, never the model's own. -/

namespace Sys2Proof.Tests

open Sys2Proof Sys2Proof.Machine Sys2Proof.Slice0

/-! Helpers. -/

/-- The reset state with operands N, A, B written. -/
def on (n a b : Nat) : State := { State.reset with N := n, A := a, B := b }

/-- The state with the answers of the entropy source given (R114 ENT). -/
def ent (answers : List Nat) (s : State) : State := { s with entropy := answers }

/-- The state BUSY with a command word accepted. -/
def busyOn (w : Word) (s : State) : State := { s with cmd := w, phase := .busy }

/-- What a function shows of the state after an outcome; nothing where the machine stopped. -/
def shown {α : Type} (o : Host.Outcome State Fault Refusal) (f : State → α) : Option α :=
  match o with
  | .next t => some (f t)
  | .fault _ => none
  | .refused _ => none

/-- What is shown after the one step that runs the word. -/
def ran {α : Type} (w : Nat) (s : State) (f : State → α) : Option α := shown (step (s.withFetchWord 32 w)) f

/-- What is shown after the one step that makes the move. -/
def moved {α : Type} (e : Event) (s : State) (f : State → α) : Option α := shown (step { s with agenda := [e] }) f

/-- The draws in the record, oldest first. -/
def drawsIn (s : State) : List (Nat × Nat × Nat) :=
  s.history.reverse.filterMap fun e => match e with
    | .drew d => some (d.lo, d.hi, d.value)
    | _ => none

/-- The word that the last read returned. -/
def readBack (s : State) : Option Word :=
  match s.history with
  | .returned _ v :: _ => some v
  | _ => none

/-! ## Well-formedness: each check refuses an ill-formed term (R100) -/

theorem test_wf_rounds_isprime : (Instr.isprimeRounds 4096).wellFormed = false := by decide
theorem test_wf_len_randodd : (Instr.randodd 8192).wellFormed = false := by decide
theorem test_wf_len_genprime : (Instr.genprimeRounds 8192 0).wellFormed = false := by decide
theorem test_wf_rounds_genprime : (Instr.genprimeRounds 0 4096).wellFormed = false := by decide
theorem test_wf_len_genprime_auto : (Instr.genprimeAuto 8192).wellFormed = false := by decide
theorem test_wf_accepts_the_largest : (Instr.genprimeRounds 8191 4095).wellFormed = true := by decide

/-! ## Decoding: bit 31, LEN, ROUNDS, AUTO, OP written out from R100 and R101 -/

theorem test_decode_nop : decode 0b0_0000000000000_000000000000_0_00000#32 = .ok .nop := by decide
theorem test_decode_modmul : decode 0b0_0000000000000_000000000000_0_00001#32 = .ok .modmul := by decide
theorem test_decode_modexp : decode 0b0_0000000000000_000000000000_0_00010#32 = .ok .modexp := by decide
theorem test_decode_modinv : decode 0b0_0000000000000_000000000000_0_00011#32 = .ok .modinv := by decide
theorem test_decode_gcd : decode 0b0_0000000000000_000000000000_0_00100#32 = .ok .gcd := by decide
theorem test_decode_decomp : decode 0b0_0000000000000_000000000000_0_00101#32 = .ok .decomp := by decide
theorem test_decode_prefilt : decode 0b0_0000000000000_000000000000_0_00110#32 = .ok .prefilt := by decide
theorem test_decode_mrround : decode 0b0_0000000000000_000000000000_0_00111#32 = .ok .mrround := by decide
theorem test_decode_isprime_rounds :
    decode 0b0_0000000000000_100000000001_0_01000#32 = .ok (.isprimeRounds 2049) := by decide
theorem test_decode_isprime_auto : decode 0b0_0000000000000_000000000000_1_01000#32 = .ok .isprimeAuto := by decide
theorem test_decode_randodd : decode 0b0_1000000000001_000000000000_0_01001#32 = .ok (.randodd 4097) := by decide
theorem test_decode_genprime_rounds :
    decode 0b0_1000000000001_100000000001_0_01010#32 = .ok (.genprimeRounds 4097 2049) := by decide
theorem test_decode_genprime_auto :
    decode 0b0_1000000000001_000000000000_1_01010#32 = .ok (.genprimeAuto 4097) := by decide

/-- V-30-7 to V-30-17 and V-30-24: one word for each condition of R108. -/
theorem test_illegal_words :
    decode 0x80000001#32 = .error .bit31 ∧ decode 0x0000000B#32 = .error .reservedOpcode ∧
    decode 0x00040002#32 = .error .lenNotZero ∧ decode 0x00000041#32 = .error .roundsNotZero ∧
    decode 0x00000021#32 = .error .autoSet ∧ decode 0x00000068#32 = .error .autoWithRounds := by decide
theorem test_illegal_words_of_each_format :
    legal 0x80000000#32 = false ∧ legal 0x0000001F#32 = false ∧ legal 0xFFFFFFFF#32 = false ∧
    legal 0x00040008#32 = false ∧ legal 0x00000029#32 = false ∧ legal 0x00000049#32 = false ∧
    legal 0x0010006A#32 = false := by decide
/-- V-30-6, V-30-20, V-30-25: the largest immediates. -/
theorem test_largest_immediates :
    decode 0x0003FFC8#32 = .ok (.isprimeRounds 4095) ∧ decode 0x7FFC0009#32 = .ok (.randodd 8191) ∧
    decode 0x7FFFFFCA#32 = .ok (.genprimeRounds 8191 4095) := by decide

/-! ## One step per command (spec/95_test_vectors.md) -/

/-- V-45-8, V-45-9. -/
theorem test_nop : ran 0x0 State.reset (fun t => (t.statusWord, t.irq)) = some (0x02, false) := by decide
theorem test_nop_interrupts :
    ran 0x0 { State.reset with ieDone := true } (fun t => (t.statusWord, t.irq)) = some (0x02, true) := by decide

/-- V-44-27: the full 128-bit product. -/
theorem test_modmul : ran 0x1 (on (2 ^ 63 + 1) (2 ^ 64 - 1) (2 ^ 64 - 1)) (fun t => (t.R, t.statusWord)) = some (9, 0x02) := by
  decide
/-- V-44-24. -/
theorem test_modmul_zero : ran 0x1 (on 0 5 5) (fun t => (t.R, t.statusWord)) = some (0, 0x104) := by decide

/-- V-44-12. -/
theorem test_modexp :
    ran 0x2 (on (2 ^ 64 - 59) 2 (2 ^ 64 - 1)) (fun t => (t.R, t.statusWord)) = some (576460752303423488, 0x02) := by
  decide +kernel
/-- V-44-9: A = N is an overflow; V-44-11: N = 0 is tested first. -/
theorem test_modexp_failures :
    ran 0x2 (on 1 1 5) State.statusWord = some 0x404 ∧ ran 0x2 (on 0 5 3) State.statusWord = some 0x104 := by
  decide

/-- V-43-1 (negative coefficient), V-43-7 (A > N). -/
theorem test_modinv :
    ran 0x3 (on 3120 17 0) (fun t => (t.R, t.statusWord)) = some (2753, 0x02) ∧
    ran 0x3 (on 5 12 0) State.R = some 3 := by decide
/-- V-45-26, V-43-13. -/
theorem test_modinv_failures :
    ran 0x3 { on 10 4 0 with R := 2790 } (fun t => (t.R, t.statusWord, t.cmd)) = some (2790, 0x604, 0x3) ∧
    ran 0x3 (on 1 0 0) State.statusWord = some 0x104 := by decide

/-- V-43-28, V-43-26. -/
theorem test_gcd : ran 0x4 (on (2 ^ 64 - 1) (2 ^ 32 - 1) 0) (fun t => (t.R, t.statusWord)) = some (4294967295, 0x02) := by
  decide
theorem test_gcd_zero : ran 0x4 (on 0 0 0) (fun t => (t.R, t.statusWord)) = some (0, 0x02) := by decide

/-- V-40-14: the largest S; V-40-3, V-40-2. -/
theorem test_decomp : ran 0x5 (on (2 ^ 63 + 1) 0 0) (fun t => (t.S, t.T, t.statusWord)) = some (63, 1, 0x02) := by
  decide
theorem test_decomp_edges :
    ran 0x5 (on 2 0 0) (fun t => (t.S, t.T)) = some (0, 1) ∧ ran 0x5 (on 1 0 0) State.statusWord = some 0x104 := by
  decide

/-- V-40-21 to V-40-24. -/
theorem test_prefilt :
    ran 0x6 (on 1 0 0) State.statusWord = some 0x12 ∧ ran 0x6 (on 2 0 0) State.statusWord = some 0x22 ∧
    ran 0x6 (on 3 0 0) State.statusWord = some 0x32 ∧ ran 0x6 (on 4 0 0) State.statusWord = some 0x12 := by decide

/-- V-40-37 (last allowed squaring), V-40-52 (hard stop), V-40-56 (full product). -/
theorem test_mrround :
    ran 0x7 (on 97 5 0) State.statusWord = some 0x22 ∧ ran 0x7 (on 561 2 0) State.statusWord = some 0x12 ∧
    ran 0x7 (on (2 ^ 64 - 59) 2 0) State.statusWord = some 0x22 := by decide +kernel
/-- V-40-60, V-40-62, V-40-65, V-40-67. -/
theorem test_mrround_domain :
    ran 0x7 (on 3 2 0) State.statusWord = some 0x104 ∧ ran 0x7 (on 222 5 0) State.statusWord = some 0x104 ∧
    ran 0x7 (on 221 220 0) State.statusWord = some 0x104 ∧ ran 0x7 (on 221 219 0) State.statusWord = some 0x12 := by
  decide

/-- V-40-82: two draws. -/
theorem test_isprime_rounds :
    ran 0x88 (ent [174, 137] (on 221 0 0)) (fun t => (t.statusWord, drawsIn t)) =
      some (0x12, [(2, 219, 174), (2, 219, 137)]) := by decide
/-- V-40-74, V-40-85, V-40-88. -/
theorem test_isprime_rounds_edges :
    ran 0x08 (on 3 0 0) State.statusWord = some 0x104 ∧ ran 0x08 (on 221 0 0) State.statusWord = some 0x22 ∧
    ran 0x88 (ent [174, 0, 9] (on 221 0 0)) (fun t => (t.statusWord, t.entropy)) = some (0x704, [9]) := by
  decide
/-- V-40-84: seven rounds by default, and a composite reported PRIME. -/
theorem test_isprime_auto :
    ran 0x28 (ent [174, 21, 47, 200, 174, 21, 47, 1] (on 221 0 0)) (fun t => (t.statusWord, t.entropy)) = some (0x22, [1]) := by
  decide

/-- V-41-12, V-41-14. -/
theorem test_randodd :
    ran 0x00200009 (ent [0x5A] State.reset) (fun t => (t.R, t.statusWord, drawsIn t)) = some (0xDB, 0x02, [(0, 255, 90)]) ∧
    ran 0x01000009 (ent [0] State.reset) State.R = some 0x8000000000000001 := by decide
/-- V-41-13, V-41-17, V-41-2. -/
theorem test_randodd_failures :
    ran 0x00200009 (ent [0x100] State.reset) State.statusWord = some 0x704 ∧
    ran 0x01040009 (ent [5] State.reset) (fun t => (t.statusWord, t.entropy)) = some (0x104, [5]) ∧
    ran 0x00040009 State.reset State.statusWord = some 0x104 := by decide

/-- V-42-8 and, on a chip with K_RETRY = 1, V-42-12 (program P6). -/
theorem test_genprime_rounds :
    ran 0x0010000A (ent [0] State.reset) (fun t => (t.R, t.statusWord)) = some (9, 0x22) ∧
    ran 0x0010004A (ent [0, 2, 15, 2, 0, 7, 6, 13] (State.resetOf 0x00010040)) (fun t => (t.R, t.statusWord, t.entropy)) =
      some (0, 0x204, []) := by decide
/-- V-42-1 (program P3). -/
theorem test_genprime_auto :
    ran 0x0010002A (ent [0, 2, 5, 2, 3, 5] State.reset) (fun t => (t.R, t.statusWord, drawsIn t)) =
      some (13, 0x22, [(0, 15, 0), (2, 7, 2), (0, 15, 5), (2, 11, 2), (2, 11, 3), (2, 11, 5)]) := by decide
/-- V-42-3, V-42-7, V-42-14. -/
theorem test_genprime_auto_failures :
    ran 0x0008002A (ent [2] State.reset) (fun t => (t.statusWord, t.entropy)) = some (0x104, []) ∧
    ran 0x0104002A (ent [2] State.reset) (fun t => (t.statusWord, t.entropy)) = some (0x104, [2]) ∧
    ran 0x0010002A (ent [0, 8] State.reset) State.statusWord = some 0x704 := by decide

/-- R81: a draw with no answer leaves the block BUSY. -/
theorem test_hold : ran 0x00200009 State.reset (fun t => (t.statusWord, t.R)) = some (0x01, 0) := by decide

/-! ## Reset, host port, traps (V-45) -/

/-- V-45-1. -/
theorem test_reset_words :
    moved (.hostRead 0x000) State.reset readBack = some (some 0) ∧ moved (.hostRead 0x004) State.reset readBack = some (some 0) ∧
    moved (.hostRead 0x008) State.reset readBack = some (some 0) ∧
    moved (.hostRead 0x00C) State.reset readBack = some (some 0x01000040) := by decide
/-- V-45-6, V-45-7: the limbs of N. -/
theorem test_limb_writes :
    moved (.hostWrite 0x200 0xCA1) State.reset (fun t => t.N) = some 3233 ∧
    moved (.hostWrite 0x204 1) (on 1 0 0) (fun t => t.N) = some (2 ^ 32 + 1) := by decide
/-- V-45-3, V-45-4, V-45-5: reserved, read-only. -/
theorem test_ignored_writes :
    moved (.hostWrite 0x208 0xDEADBEEF) State.reset (fun t => (t.N, t.statusWord)) = some (0, 0) ∧
    moved (.hostWrite 0x800 5) State.reset (fun t => (t.R, t.statusWord)) = some (0, 0) ∧
    moved (.hostWrite 0x00C 0) State.reset (fun t => (t.cap, t.statusWord)) = some (0x01000040, 0) := by decide
/-- V-45-11, V-45-12, V-45-13, V-45-14: writes in BUSY. -/
theorem test_writes_in_busy :
    moved (.hostWrite 0x000 1) (busyOn 0 State.reset) (fun t => (t.statusWord, t.cmd)) = some (0x09, 0) ∧
    moved (.hostWrite 0x200 7) (busyOn 0 State.reset) (fun t => (t.statusWord, t.N)) = some (0x09, 0) ∧
    moved (.hostWrite 0x008 3) (busyOn 0 State.reset) (fun t => (t.statusWord, t.ctrlWord)) = some (0x01, 3) ∧
    moved (.hostWrite 0x004 8) (busyOn 0 State.reset) State.statusWord = some 0x09 := by decide
/-- V-45-17, V-45-18, V-45-19: ERR. -/
theorem test_writes_in_err :
    moved (.hostWrite 0x000 0) (State.reset.trapEntry .encodingOverflow) State.statusWord = some 0x40C ∧
    moved (.hostWrite 0x004 0x0C) { State.reset.trapEntry .encodingOverflow with ovr := true } State.statusWord = some 0 ∧
    moved (.hostWrite 0x004 0x02) (State.reset.trapEntry .encodingOverflow) State.statusWord = some 0x404 := by
  decide
/-- V-45-21, V-45-22, V-45-10: DONE and IDLE. -/
theorem test_writes_in_done :
    moved (.hostWrite 0x004 2) { State.reset with phase := .done, verdict := .prime } State.statusWord = some 0x20 ∧
    moved (.hostWrite 0x000 0) { State.reset with verdict := .prime } State.statusWord = some 0x01 ∧
    moved (.hostWrite 0x000 0) { State.reset with phase := .done } State.statusWord = some 0x01 := by decide
/-- V-45-23: the interrupt of a failure. -/
theorem test_trap_interrupt :
    ({ State.reset with ieErr := true }.trapEntry .invalidInput).irq = true ∧
    moved (.hostWrite 0x004 4) ({ State.reset with ieErr := true }.trapEntry .invalidInput)
      (fun t => (t.statusWord, t.irq)) = some (0, false) := by decide
/-- V-45-25, R261: reset in BUSY; the one draw made stays consumed. -/
theorem test_rst :
    moved (.rst 1) (ent [174, 137] (busyOn 0x88 (on 221 3 4))) (fun t => (t.N, t.statusWord, t.cmd, t.cap, t.entropy)) =
      some (0, 0, 0, 0x01000040, [137]) := by decide

/-- R261: the outstanding draw is abandoned and its late answer ignored; the next answer is for the next draw. -/
theorem test_late_answer :
    moved (.rst 1) (ent [174] (busyOn 0x88 (on 221 3 4))) (fun t => (t.entropy, t.abandoned)) = some ([], 1) ∧
    moved (.rst 1) (ent [174] (busyOn 0x4 (on 221 3 4))) (fun t => (t.entropy, t.abandoned)) = some ([174], 0) ∧
    moved (.answer 9) { State.reset with abandoned := 1 } (fun t => (t.entropy, t.abandoned)) = some ([], 0) ∧
    moved (.answer 9) State.reset (fun t => (t.entropy, t.abandoned)) = some ([9], 0) ∧
    moved .withdraw { State.reset with abandoned := 1 } (fun t => (t.entropy, t.abandoned)) = some ([], 0) := by decide

/-! ## Witnesses: for every statement with hypotheses, a concrete state and operands that meet them -/

/-- BUSY with N = 221 and ISPRIME rounds=2 in CMD. -/
def busy221 : State := busyOn 0x88 (on 221 0 0)
/-- The chip of program P6: K_RETRY = 1. -/
def oneTry : State := State.resetOf 0x00010040
/-- A chip with the largest width: W = 4096, K_RETRY = 1. -/
def widest : State := State.resetOf 0x00011000

theorem test_witness_DecodeOfEncodeIsTheCommand :
    (Instr.genprimeRounds 8191 4095).wellFormed = true ∧ (Instr.isprimeRounds 0).wellFormed = true := by decide
theorem test_witness_EncodeOfDecodeIsTheWord : decode 0x7FFFFFCA#32 = .ok (.genprimeRounds 8191 4095) := by decide
theorem test_witness_DecodeAgreesWithTheOpcodeTable :
    decode 0x7FFC0009#32 = .ok (.randodd 8191) ∧ legal 0x7FFC0009#32 = true ∧ legal 0x7FFC000B#32 = false := by decide
theorem test_witness_IllegalWordsAreTheSixConditions :
    legal 0x80000007#32 = false ∧ legal 0x0000000B#32 = false ∧ legal 0x0000001F#32 = false ∧ legal 0x00040008#32 = false ∧
    legal 0x00000049#32 = false ∧ legal 0x00000029#32 = false ∧ legal 0x0000006A#32 = false := by decide
theorem test_witness_NopCompletesAndTouchesNothing : ({ State.reset with ieDone := true } : State).ieDone = true := rfl
theorem test_witness_ModmulLeavesTheReducedProduct : (on 0 5 5).N = 0 ∧ (on 1 5 5).N ≠ 0 := by decide
theorem test_witness_ModexpLeavesThePower :
    (on 0 5 3).N = 0 ∧ ((on 7 7 3).N ≠ 0 ∧ (on 7 7 3).A ≥ (on 7 7 3).N) ∧
    ((on 7 6 1).N ≠ 0 ∧ (on 7 6 1).A < (on 7 6 1).N) := by decide
theorem test_witness_ModinvLeavesTheUniqueInverse :
    (on 1 0 0).N < 2 ∧ (2 ≤ (on 10 4 0).N ∧ Nat.gcd (on 10 4 0).N (on 10 4 0).A ≠ 1) ∧
    (2 ≤ (on 2 1 0).N ∧ Nat.gcd (on 2 1 0).N (on 2 1 0).A = 1) := by decide
theorem test_witness_DecompLeavesTheDecomposition :
    (on 1 0 0).N < 2 ∧ (2 ≤ (on 2 0 0).N ∧ (on 2 0 0).N - 1 = 2 ^ 0 * 1 ∧ 1 % 2 = 1) ∧
    (2 ≤ (on 221 0 0).N ∧ (on 221 0 0).N - 1 = 2 ^ 2 * 55 ∧ 55 % 2 = 1) := by decide
theorem test_witness_PrefiltLeavesTheFastRejection :
    (on 1 0 0).N < 2 ∧ (on 2 0 0).N = 2 ∧ (2 < (on 4 0 0).N ∧ (on 4 0 0).N % 2 = 0) ∧
    (2 < (on 3 0 0).N ∧ (on 3 0 0).N % 2 = 1) := by decide
theorem test_witness_MrroundLeavesTheRoundsVerdict :
    (on 4 2 0).N < 5 ∧ (on 222 5 0).N % 2 = 0 ∧ (on 5 1 0).A < 2 ∧ (on 5 4 0).A > (on 5 4 0).N - 2 ∧
    (5 ≤ (on 5 3 0).N ∧ (on 5 3 0).N % 2 = 1 ∧ 2 ≤ (on 5 3 0).A ∧ (on 5 3 0).A ≤ (on 5 3 0).N - 2) ∧
    mrRound 5 3 = .pass ∧ mrRound 221 219 = .composite := by decide
theorem test_witness_RoundPassesExactlyOnStrongPseudoprimeWitnesses :
    5 ≤ 5 ∧ 5 % 2 = 1 ∧ 5 - 1 = 2 ^ 2 * 1 ∧ 1 % 2 = 1 := by decide
theorem test_witness_IsprimeDecidesWithoutDrawing :
    runsIsprime (.isprimeRounds 0) 3 0 ∧ runsIsprime .isprimeAuto 3 1 ∧ (on 1 0 0).N < 2 ∧ (on 2 0 0).N = 2 ∧
    (2 < (on 4 0 0).N ∧ (on 4 0 0).N % 2 = 0) ∧ (on 3 0 0).N = 3 := by unfold runsIsprime; decide
theorem test_witness_IsprimeReportsPrimeWhenEveryRoundPasses :
    runsIsprime .isprimeAuto (on 5 0 0).N 2 ∧ 5 ≤ (on 5 0 0).N ∧ (on 5 0 0).N % 2 = 1 ∧
    (ent [2, 3, 9] (on 5 0 0)).entropy = [2, 3] ++ [9] ∧ [2, 3].length = 2 ∧ allPass (on 5 0 0) 5 [2, 3] := by
  unfold runsIsprime allPass answered; decide
theorem test_witness_IsprimeStopsAtTheFirstCompositeRound :
    runsIsprime (.isprimeRounds 2) (on 221 0 0).N 2 ∧ 5 ≤ (on 221 0 0).N ∧ (on 221 0 0).N % 2 = 1 ∧
    (ent [174, 219] (on 221 0 0)).entropy = [174] ++ 219 :: [] ∧ [174].length < 2 ∧ allPass (on 221 0 0) 221 [174] ∧
    2 ≤ answered (on 221 0 0) 219 ∧ answered (on 221 0 0) 219 ≤ 221 - 2 ∧
    mrRound 221 (answered (on 221 0 0) 219) = .composite := by
  unfold runsIsprime allPass answered; decide
theorem test_witness_IsprimeFailsOnAnOutOfRangeWitness :
    runsIsprime (.isprimeRounds 2) (on 221 0 0).N 2 ∧ (ent [174, 220] (on 221 0 0)).entropy = [174] ++ 220 :: [] ∧
    [174].length < 2 ∧ allPass (on 221 0 0) 221 [174] ∧ 221 - 2 < answered (on 221 0 0) 220 ∧
    answered (on 221 0 0) 1 < 2 := by
  unfold runsIsprime allPass answered; decide
theorem test_witness_IsprimeReportsEveryPrimeAsPrime :
    runsIsprime .isprimeAuto (on 5 0 0).N 2 ∧ Nat.Prime (on 5 0 0).N ∧ 5 ≤ (on 5 0 0).N ∧
    2 ≤ (ent [2, 3] (on 5 0 0)).entropy.length ∧
    ∀ a ∈ (ent [2, 3] (on 5 0 0)).entropy.take 2, 2 ≤ answered (on 5 0 0) a ∧ answered (on 5 0 0) a ≤ 5 - 2 :=
  ⟨.inr ⟨rfl, by decide⟩, Nat.prime_five, by decide, by decide, by unfold answered; decide⟩
theorem test_witness_RandoddLeavesTheForcedCandidate :
    (1 < 2 ∧ State.reset.width < 65) ∧ (2 ≤ 8 ∧ 8 ≤ State.reset.width ∧ answered State.reset 255 ≤ 2 ^ 8 - 1) ∧
    2 ^ 8 - 1 < answered State.reset 256 ∧ 64 ≤ State.reset.width := by unfold answered; decide
theorem test_witness_CandidatesHaveExactLengthAndAreOdd : 2 ≤ 3 ∧ 7 < 2 ^ 3 ∧ 1 ≤ 1 ∧ 1 ≤ 3 - 2 := by decide
theorem test_witness_GenprimeRejectsBadLengths :
    runsGenprime (.genprimeAuto 1) 1 0 ∧ runsGenprime (.genprimeRounds 65 5) 65 5 ∧ State.reset.width < 65 ∧
    runsGenprime (.genprimeAuto 2) 2 1 ∧ 2 ≤ State.reset.width ∧ 1 ≤ State.reset.kRetry ∧ answered State.reset 3 ≤ 3 := by
  unfold runsGenprime answered; decide

/-- The four trials of program P6, all rejected. -/
def rejectedTrials : List (List Nat) := [[0, 2], [15, 2], [0, 7], [6, 13]]

theorem test_rejected_trials : ∀ block ∈ rejectedTrials, rejectedTrial oneTry 4 1 block := by
  have h (v a : Nat) (hv : answered oneTry v < 2 ^ 4) (h2 : 2 ≤ answered oneTry a)
      (ha : answered oneTry a ≤ candidate oneTry 4 v - 2)
      (hm : mrRound (candidate oneTry 4 v) (answered oneTry a) = .composite) : rejectedTrial oneTry 4 1 [v, a] :=
    ⟨v, [], a, rfl, hv, by decide, fun _ hb => absurd hb (List.not_mem_nil), h2, ha, hm⟩
  intro block hb
  simp only [rejectedTrials, List.mem_cons, List.not_mem_nil, or_false] at hb
  rcases hb with rfl | rfl | rfl | rfl <;> exact h _ _ (by decide) (by decide) (by decide) (by decide)
theorem test_accepted_trial : acceptedTrial oneTry 4 1 [5, 11] :=
  ⟨5, [11], rfl, by decide, rfl, by unfold allPass; decide⟩
theorem test_witness_GenprimeReturnsTheFirstAcceptedCandidate :
    runsGenprime (.genprimeRounds 4 1) 4 1 ∧ 3 ≤ 4 ∧ 4 ≤ oneTry.width ∧
    (rejectedTrials.take 3).length < oneTry.kRetry * 4 ∧
    (∀ block ∈ rejectedTrials.take 3, rejectedTrial oneTry 4 1 block) ∧ acceptedTrial oneTry 4 1 (5 :: [11]) ∧
    (ent [0, 2, 15, 2, 0, 7, 5, 11, 3] oneTry).entropy = (rejectedTrials.take 3).flatten ++ (5 :: [11]) ++ [3] :=
  ⟨.inl rfl, by decide, by decide, by decide, fun b hb => test_rejected_trials b (List.mem_of_mem_take hb),
    test_accepted_trial, rfl⟩
theorem test_witness_GenprimeIsExhaustedAfterItsCeiling :
    runsGenprime (.genprimeRounds 4 1) 4 1 ∧ 3 ≤ 4 ∧ 4 ≤ oneTry.width ∧ rejectedTrials.length = oneTry.kRetry * 4 ∧
    (∀ block ∈ rejectedTrials, rejectedTrial oneTry 4 1 block) ∧
    (ent [0, 2, 15, 2, 0, 7, 6, 13, 9] oneTry).entropy = rejectedTrials.flatten ++ [9] :=
  ⟨.inl rfl, by decide, by decide, by decide, test_rejected_trials, rfl⟩
theorem test_witness_GenprimeFailsOnAnOutOfRangeAnswer :
    runsGenprime (.genprimeRounds 4 1) 4 1 ∧ 2 ≤ 4 ∧ 3 ≤ 4 ∧ 4 ≤ oneTry.width ∧
    (rejectedTrials.take 1).length < oneTry.kRetry * 4 ∧
    (∀ block ∈ rejectedTrials.take 1, rejectedTrial oneTry 4 1 block) ∧
    ((ent [0, 2, 16] oneTry).entropy = (rejectedTrials.take 1).flatten ++ 16 :: [] ∧ 2 ^ 4 ≤ answered oneTry 16) ∧
    ((ent [0, 2, 0, 8] oneTry).entropy = (rejectedTrials.take 1).flatten ++ 0 :: ([] ++ [8]) ++ [] ∧
      answered oneTry 0 < 2 ^ 4 ∧ ([] : List Nat).length < 1 ∧ allPass oneTry (candidate oneTry 4 0) [] ∧
      candidate oneTry 4 0 - 2 < answered oneTry 8) :=
  ⟨.inl rfl, by decide, by decide, by decide, by decide, fun b hb => test_rejected_trials b (List.mem_of_mem_take hb),
    ⟨rfl, by decide⟩, rfl, by decide, by decide, fun _ hb => absurd hb (List.not_mem_nil), by decide⟩
theorem test_witness_GenprimeFailsOnAnOutOfRangeAnswer_len_two :
    runsGenprime (.genprimeAuto 2) 2 1 ∧ 2 ≤ 2 ∧ 2 ≤ State.reset.width ∧
    ([] : List (List Nat)).length < State.reset.kRetry * 2 ∧
    (ent [4] State.reset).entropy = ([] : List (List Nat)).flatten ++ 4 :: [] ∧ 2 ^ 2 ≤ answered State.reset 4 :=
  ⟨.inr ⟨rfl, rfl⟩, by decide, by decide, by decide, rfl, by decide⟩
theorem test_witness_GenprimeResultsHaveTheirShape :
    runsGenprime (.genprimeAuto 3) 3 2 ∧ (busyOn 0x000C002A (ent [2, 2, 3] State.reset)).phase = .busy ∧
    ∃ t, exec (.genprimeAuto 3) (busyOn 0x000C002A (ent [2, 2, 3] State.reset)) = .next t ∧ t.phase = .done :=
  ⟨.inr ⟨rfl, rfl⟩, rfl, _, rfl, by decide⟩
theorem test_witness_ExhaustedGenprimeDrawsWithinItsBounds :
    runsGenprime (.genprimeRounds 4 1) 4 1 ∧ 1 ≤ oneTry.kRetry ∧
    ∃ t, exec (.genprimeRounds 4 1) (busyOn 0x0010004A (ent rejectedTrials.flatten oneTry)) = .next t ∧
      t.phase = .err ∧ t.errcode = 2 :=
  ⟨.inl rfl, by decide, _, rfl, by decide, by decide⟩
theorem test_witness_ResultRegistersHaveTheirWriters :
    (∃ t, exec .modmul (busyOn 1 (on 5 7 8)) = .next t ∧ t.R ≠ (on 5 7 8).R ∧ t.phase = .done) ∧
    (∃ t, exec .decomp (busyOn 5 (on 221 0 0)) = .next t ∧ t.T ≠ (on 221 0 0).T ∧ t.phase = .done) ∧
    (∃ t, exec .prefilt (busyOn 6 (on 3 0 0)) = .next t ∧ t.phase = .done) ∧
    (∃ t, exec .mrround (busyOn 7 (on 5 2 0)) = .next t ∧ t.phase = .done) ∧
    (∃ t, exec .isprimeAuto (busyOn 0x28 (on 4 0 0)) = .next t ∧ t.phase = .done) ∧
    ∃ t, exec (.genprimeRounds 4 0) (busyOn 0x0010000A (ent [0] State.reset)) = .next t ∧ t.phase = .done :=
  ⟨⟨_, rfl, by decide, by decide⟩, ⟨_, rfl, by decide, by decide⟩, ⟨_, rfl, by decide⟩, ⟨_, rfl, by decide⟩,
    ⟨_, rfl, by decide⟩, _, rfl, by decide⟩
theorem test_witness_FailedCommandsLeaveTheDataState :
    (busyOn 0x2 (on 7 7 3)).phase = .busy ∧ ∃ t, exec .modexp (busyOn 0x2 (on 7 7 3)) = .next t ∧ t.phase = .err :=
  ⟨rfl, _, rfl, by decide⟩
theorem test_witness_CommandsIgnoreTheOperandsTheyDoNotRead :
    (∃ t, exec .decomp (on 221 1 2) = .next t) ∧ Instr.decomp ≠ .modmul ∧ Instr.decomp ≠ .modexp ∧
    Instr.decomp ≠ .modinv ∧ Instr.decomp ≠ .gcd ∧ Instr.decomp ≠ .mrround ∧
    (∃ t, exec (.randodd 8) (ent [90] (on 221 1 2)) = .next t) ∧ ∃ len, Instr.randodd 8 = .randodd len :=
  ⟨⟨_, rfl⟩, by decide, by decide, by decide, by decide, by decide, ⟨_, rfl⟩, 8, rfl⟩
theorem test_witness_CommandsConsumeAnswersInOrder :
    (ent [174, 219] busy221).registersFit ∧ (ent [174, 219] busy221).phase = .busy ∧
    ∃ t, exec (.isprimeRounds 2) (ent [174, 219] busy221) = .next t ∧ t.phase ≠ .busy :=
  ⟨by decide, rfl, _, rfl, by decide⟩
theorem test_witness_CommandsDrawAtMostTheirNumber :
    (∃ t, exec .nop State.reset = .next t) ∧ drawsNothing .nop ∧ drawsNothing .mrround :=
  ⟨⟨_, rfl⟩, by unfold drawsNothing; decide, by unfold drawsNothing; decide⟩
theorem test_witness_CommandsEndWhenTheirDrawsAreAnswered :
    mostDraws (.isprimeRounds 2) (ent [174, 219] busy221) ≤ (ent [174, 219] busy221).entropy.length ∧
    mostDraws .modexp State.reset ≤ State.reset.entropy.length := by decide
theorem test_witness_AnUnansweredDrawHoldsTheBlock :
    busy221.phase = .busy ∧ decode busy221.cmd = .ok (.isprimeRounds 2) ∧
    ∃ t, exec (.isprimeRounds 2) busy221 = .next t ∧ t.phase = .busy ∧ busy221.agenda = [] :=
  ⟨rfl, by decide, _, rfl, by decide, rfl⟩
theorem test_witness_AnUnansweredDrawHoldsTheBlock_dry :
    runsDry (.isprimeRounds 2) (ent [174] (on 221 0 0)) ∧ runsDry .isprimeAuto (on 5 0 0) ∧
    runsDry (.randodd 2) State.reset ∧ runsDry (.genprimeAuto 2) State.reset ∧
    runsDry (.genprimeRounds 4 1) (ent rejectedTrials.dropLast.flatten oneTry) ∧
    runsDry (.genprimeRounds 4 1) (ent (rejectedTrials.dropLast.flatten ++ [5]) oneTry) :=
  ⟨.inl ⟨2, .inl rfl, by decide, by decide, by decide, by unfold allPass; decide⟩,
    .inl ⟨2, .inr ⟨rfl, by decide⟩, by decide, by decide, by decide, fun _ hb => absurd hb List.not_mem_nil⟩,
    .inr (.inl ⟨2, rfl, by decide, by decide, rfl⟩),
    .inr (.inr ⟨2, 1, [], .inr ⟨rfl, rfl⟩, by decide, by decide, by decide, fun _ hb => absurd hb List.not_mem_nil, .inl rfl⟩),
    .inr (.inr ⟨4, 1, rejectedTrials.dropLast, .inl rfl, by decide, by decide, by decide,
      fun b hb => test_rejected_trials b (List.dropLast_subset _ hb), .inl rfl⟩),
    .inr (.inr ⟨4, 1, rejectedTrials.dropLast, .inl rfl, by decide, by decide, by decide,
      fun b hb => test_rejected_trials b (List.dropLast_subset _ hb),
      .inr ⟨5, [], by decide, rfl, by decide, by decide, fun _ hb => absurd hb List.not_mem_nil⟩⟩)⟩
theorem test_witness_AnAnswerLiftsTheHold :
    let s : State := { busyOn 0x00200009 State.reset with agenda := [.sequencer, .answer 90] }
    s.phase = .busy ∧ decode s.cmd = .ok (.randodd 8) ∧ 2 ≤ 8 ∧ 8 ≤ s.width ∧ s.entropy = [] ∧ s.abandoned = 0 ∧
    s.agenda = [.sequencer, .answer 90] ∧ answered s 90 ≤ 2 ^ 8 - 1 := by unfold answered; decide
theorem test_witness_AStepRunsTheDecodedCommand :
    ({ busy221 with agenda := [.sequencer, .hostRead 4] } : State).agenda = .sequencer :: [.hostRead 4] ∧
    busy221.agenda = [] ∧ busy221.phase = .busy ∧ decode busy221.cmd = .ok (.isprimeRounds 2) ∧
    State.reset.phase ≠ .busy := by decide
theorem test_witness_AFetchedWordRunsInTheNextStep :
    4 < 2 ^ 32 ∧ decode (BitVec.ofNat 32 4) = .ok .gcd ∧ 0x7FFFFFCA < 2 ^ 32 ∧
    decode (BitVec.ofNat 32 0x7FFFFFCA) = .ok (.genprimeRounds 8191 4095) := by decide
theorem test_witness_IllegalWordsFailWithIllegalCommand :
    (busyOn 0x0000000B State.reset).phase = .busy ∧ legal (busyOn 0x0000000B State.reset).cmd = false := by decide
theorem test_witness_TrapEntryChangesStatusOnly : ({ State.reset with ieErr := true } : State).ieErr = true := rfl
theorem test_witness_CmdWritesAreAcceptedInIdleAndDone :
    State.reset.phase = .idle ∧ ({ State.reset with phase := .done } : State).phase = .done ∧ busy221.phase = .busy ∧
    (State.reset.trapEntry .invalidInput).phase = .err := by decide
theorem test_witness_StatusWritesClearByWritingOne :
    busy221.phase = .busy ∧ (State.reset.trapEntry .invalidInput).phase ≠ .busy := by decide
theorem test_witness_HostWritesActByOffsetAndPhase :
    State.reset.parametersLegal ∧ reservedOffset State.reset 0x010 ∧ reservedOffset State.reset 0x1FC ∧
    reservedOffset State.reset 0x208 ∧ reservedOffset State.reset 0xBFC ∧ reservedOffset State.reset 0xC04 ∧
    reservedOffset State.reset 0xFFC := by unfold reservedOffset; decide
theorem test_witness_HostWritesActByOffsetAndPhase_limbs :
    State.reset.parametersLegal ∧ resultLimb State.reset .R 1 0x804 ∧ resultLimb State.reset .T 0 0xA00 ∧
    resultLimb State.reset .S 0 0xC00 ∧ operandLimb State.reset .N 0 0x200 ∧ operandLimb State.reset .B 1 0x604 ∧
    State.reset.phase ≠ .busy ∧ State.reset.phase ≠ .err := by
  unfold resultLimb operandLimb; decide
theorem test_witness_HostWritesActByOffsetAndPhase_phase :
    busy221.parametersLegal ∧ writeIgnoredByPhase busy221 0x000 ∧ writeIgnoredByPhase busy221 0x004 ∧
    writeIgnoredByPhase busy221 0x604 ∧ writeIgnoredByPhase (State.reset.trapEntry .invalidInput) 0x000 :=
  ⟨by decide, .inl ⟨rfl, .inl rfl⟩, .inl ⟨rfl, .inr (.inl rfl)⟩,
    .inl ⟨rfl, .inr (.inr ⟨.B, 1, by unfold operandLimb; decide⟩)⟩, .inr ⟨rfl, rfl⟩⟩
theorem test_witness_HostReadsReturnTheWordAndChangeNothing :
    widest.parametersLegal ∧ 0xFFC % 4 = 0 ∧ 0xFFC ≤ 0xFFC ∧ reservedOffset widest 0xFFC ∧
    operandLimb widest .N 127 0x3FC ∧ operandLimb widest .A 127 0x5FC ∧ operandLimb widest .B 127 0x7FC ∧
    resultLimb widest .R 127 0x9FC ∧ resultLimb widest .T 127 0xBFC ∧ widest.phase ≠ .busy := by
  unfold reservedOffset resultLimb operandLimb; decide
theorem test_witness_EveryWordOffsetHasOneRole :
    widest.parametersLegal ∧ 0x3FC % 4 = 0 ∧ 0x3FC ≤ 0xFFC ∧ ¬ reservedOffset widest 0x3FC ∧
    reservedOffset State.reset 0x3FC := by unfold reservedOffset; decide
theorem test_witness_AccessesOffThePortAreNoStep : 2 % 4 ≠ 0 ∧ 0x1000 > 0xFFC ∧ 0xFFC % 4 = 0 ∧ 0xFFC ≤ 0xFFC := by decide
theorem test_witness_RegistersAreTheirLimbs : (0 : Nat) ≠ 1 ∧ 2 ^ 64 - 1 < 2 ^ (32 * 2) := by decide
theorem test_witness_ResetLeavesTheResetState :
    State.reset.phase ≠ .busy ∧ legal (busyOn 0xB State.reset).cmd = false ∧
    (busy221.phase = .busy ∧ decode busy221.cmd = .ok (.isprimeRounds 2) ∧
      (∃ u, exec (.isprimeRounds 2) (ent ([174, 137].take 1) busy221) = .next u ∧ u.phase = .busy) ∧
      ∃ u, exec (.isprimeRounds 2) (ent ([174, 137, 9].take 3) busy221) = .next u ∧ u.phase ≠ .busy) ∧
    0 < ({ State.reset with abandoned := 1 } : State).abandoned ∧ State.reset.abandoned = 0 :=
  ⟨by decide, by decide, ⟨rfl, by decide, ⟨_, rfl, by decide⟩, _, rfl, by decide⟩, by decide, rfl⟩
theorem test_witness_PhaseTransitionsAreTheListedOnes :
    (moved (.rst 0) busy221 State.phase = some .idle ∧ busy221.phase ≠ .idle) ∧
    (moved (.hostWrite 0x000 1) State.reset State.phase = some .busy ∧ State.reset.phase = .idle) ∧
    moved (.hostWrite 0x000 1) busy221 State.phase = some .busy ∧
    moved (.hostWrite 0x000 1) (State.reset.trapEntry .invalidInput) State.phase = some .err ∧
    moved .sequencer (busyOn 0 State.reset) State.phase = some .done ∧
    moved .sequencer (busyOn 0xB State.reset) State.phase = some .err ∧ moved .sequencer busy221 State.phase = some .busy ∧
    moved (.hostWrite 0x004 2) { State.reset with phase := .done } State.phase = some .idle ∧
    moved (.hostWrite 0x004 4) (State.reset.trapEntry .invalidInput) State.phase = some .idle := by decide
theorem test_witness_CmdChangesOnlyOnAcceptanceOrReset :
    moved (.hostWrite 0x000 1) State.reset State.cmd = some 1 ∧ State.reset.cmd ≠ 1 ∧
    moved (.rst 0) busy221 State.cmd = some 0 ∧ busy221.cmd ≠ 0 := by decide
theorem test_witness_OperandsChangeOnlyByHostWritesOutsideBusy :
    moved (.hostWrite 0x200 7) State.reset (fun t => t.N) = some 7 ∧ State.reset.N ≠ 7 ∧
    moved (.rst 0) busy221 (fun t => t.N) = some 0 ∧ busy221.N ≠ 0 := by decide
theorem test_witness_OverrunIsSticky :
    busy221.parametersLegal ∧ writeIgnoredByPhase busy221 0x000 ∧
    (busy221.ovr = false ∧ moved (.hostWrite 0x200 7) busy221 (fun t => t.ovr) = some true) ∧
    moved (.hostWrite 0x000 7) (State.reset.trapEntry .invalidInput) (fun t => t.ovr) = some true ∧
    moved (.hostWrite 0x004 8) { State.reset with ovr := true } (fun t => t.ovr) = some false ∧
    moved (.rst 0) { busy221 with ovr := true } (fun t => t.ovr) = some false ∧ ∃ t, exec .gcd (on 12 18 0) = .next t :=
  ⟨by decide, .inl ⟨rfl, .inl rfl⟩, by decide, by decide, by decide, by decide, _, rfl⟩
theorem test_witness_InterruptRisesOnlyOnCompletionOrEnable :
    (({ busyOn 0 State.reset with ieDone := true } : State).irq = false ∧
      moved .sequencer { busyOn 0 State.reset with ieDone := true } State.irq = some true) ∧
    (({ State.reset with phase := .done } : State).irq = false ∧
      moved (.hostWrite 0x008 1) { State.reset with phase := .done } State.irq = some true) ∧
    (({ State.reset with phase := .done, ieDone := true } : State).irq = true ∧
      moved (.hostWrite 0x004 2) { State.reset with phase := .done, ieDone := true } State.irq = some false ∧
      moved (.hostWrite 0x000 0) { State.reset with phase := .done, ieDone := true } State.irq = some false ∧
      moved (.hostWrite 0x008 0) { State.reset with phase := .done, ieDone := true } State.irq = some false ∧
      moved (.rst 0) { State.reset with phase := .done, ieDone := true } State.irq = some false) := by decide
theorem test_witness_ResetSatisfiesTheInvariant : (State.resetOf 0xFFFF1000).parametersLegal := by decide
theorem test_witness_EveryStepKeepsTheInvariant :
    (busyOn 0x2 (on 7 7 3)).wf ∧ shown (step (busyOn 0x2 (on 7 7 3))) State.statusWord = some 0x404 := by decide
theorem test_witness_HostTrafficDoesNotDisturbARunningCommand :
    busy221.phase = .busy ∧ decode busy221.cmd = .ok (.isprimeRounds 2) ∧
    (∃ u, perform (.hostWrite 0x200 7) busy221 = .next u) ∧ (∃ u, perform (.hostRead 0x200) busy221 = .next u) ∧
    ∃ t, exec (.isprimeRounds 2) busy221 = .next t :=
  ⟨rfl, by decide, ⟨_, rfl⟩, ⟨_, rfl⟩, _, rfl⟩
theorem test_witness_ModexpUndoesModexp :
    Nat.Prime 61 ∧ Nat.Prime 53 ∧ 61 ≠ 53 ∧ 2753 * 17 % ((61 - 1) * (53 - 1)) = 1 ∧ (on 3233 65 17).N = 61 * 53 ∧
    (on 3233 65 17).A = 65 ∧ 65 < (on 3233 65 17).N ∧ (on 3233 65 17).B = 17 :=
  ⟨by norm_num, by norm_num, by decide, by decide, by decide, rfl, by decide, rfl⟩

end Sys2Proof.Tests
end

/-! # The statements on state: who writes what

R33 (which command writes R, T, S and the verdict), R30 (the phase transitions) and R32 (the overrun flag). -/

namespace Sys2Proof.Machine

open Sys2Proof.Slice0

/-! ## What a body leaves at `done` (R33) -/

/-- A run of two parts has a value exactly when both parts have one. -/
theorem Ran.bind_eq_ok {α β : Type} {x : Ran α} {f : α → Port → Ran β} {b : β} {q : Port} :
    x.bind f = .ok b q ↔ ∃ a p, x = .ok a p ∧ f a p = .ok b q := by
  cases x with
  | ok a p =>
    refine ⟨fun h => ⟨a, p, rfl, h⟩, ?_⟩
    rintro ⟨a, p, ⟨⟩, h⟩
    exact h
  | raise k p => simp
  | wait p => simp

/-- The verdicts of the fast rejection (R132). -/
theorem prefilter_cases (n : Nat) : prefilter n = .composite ∨ prefilter n = .prime ∨ prefilter n = .undecided := by
  unfold prefilter; split_ifs <;> simp

/-- The rounds end with PRIME or COMPOSITE (R137). -/
theorem runRounds_verdict {w n : Nat} {v : Verdict} {q : Port} :
    ∀ {k : Nat} {p : Port}, runRounds w n k p = .ok v q → v = .prime ∨ v = .composite
  | 0, p, h => by cases h; exact .inl rfl
  | k + 1, p, h => by
    obtain ⟨a, p', -, h⟩ := Ran.bind_eq_ok.1 h
    split at h
    · cases h; exact .inr rfl
    · exact runRounds_verdict h

/-- The whole test ends with PRIME or COMPOSITE: where the fast rejection is undecided, the rounds decide (R137). -/
theorem isProbablePrime_verdict {w n : Nat} {rc : RoundCount} {v : Verdict} {p q : Port}
    (h : isProbablePrime w n rc p = .ok v q) : v = .prime ∨ v = .composite := by
  rcases isProbablePrime_cases w n rc p with ⟨hn, e⟩ | ⟨-, e⟩ | ⟨-, -, e⟩ <;> rw [e] at h
  · cases h
    rcases prefilter_cases n with e | e | e
    · exact .inr e
    · exact .inl e
    · exact absurd e hn
  · cases h
  · exact runRounds_verdict h

/-- The prime search returns only candidates that passed their test. -/
theorem primeTrials_result {w len : Nat} {rc : RoundCount} {res : Result} {q : Port} :
    ∀ {j : Nat} {p : Port}, primeTrials w len rc j p = .ok res q → ∃ c, res = { r := some c, verdict := .prime }
  | 0, p, h => by cases h
  | j + 1, p, h => by
    obtain ⟨c, p₁, -, h⟩ := Ran.bind_eq_ok.1 h
    obtain ⟨v, p₂, -, h⟩ := Ran.bind_eq_ok.1 h
    split at h
    · cases h; exact ⟨c, rfl⟩
    · exact primeTrials_result h

/-- The row of the table of R33 for a command: which registers it assigns at completion, and with which verdict. -/
def resultRow (i : Instr) (res : Result) : Prop :=
  match i with
  | .nop => res = {}
  | .modmul | .modexp | .modinv | .gcd | .randodd _ => ∃ v, res = { r := some v }
  | .decomp => ∃ ts, res = { ts := some ts }
  | .prefilt => ∃ n, res = { verdict := prefilter n }
  | .mrround | .isprimeRounds _ | .isprimeAuto => ∃ v, (v = .prime ∨ v = .composite) ∧ res = { verdict := v }
  | .genprimeRounds _ _ | .genprimeAuto _ => ∃ c, res = { r := some c, verdict := .prime }

/-- ISPRIME assigns no register and leaves PRIME or COMPOSITE (R138). -/
theorem isprimeBody_result {rc : RoundCount} {s : State} {p q : Port} {res : Result}
    (h : isprimeBody rc s p = .ok res q) : ∃ v, (v = .prime ∨ v = .composite) ∧ res = { verdict := v } := by
  obtain ⟨v, p', hv, h⟩ := Ran.bind_eq_ok.1 h
  cases h
  exact ⟨v, isProbablePrime_verdict hv, rfl⟩

/-- GENPRIME assigns R and leaves PRIME (R171). -/
theorem genprimeBody_result {len : Nat} {rc : RoundCount} {s : State} {p q : Port} {res : Result}
    (h : genprimeBody len rc s p = .ok res q) : ∃ c, res = { r := some c, verdict := .prime } := by
  unfold genprimeBody at h
  split at h
  · cases h
  · exact primeTrials_result h

/-- A body that reaches `done` leaves what the table of R33 says of its command. -/
theorem bodyOf_result {i : Instr} {s : State} {p q : Port} {res : Result} (h : bodyOf i s p = .ok res q) :
    resultRow i res := by
  cases i <;> simp only [bodyOf] at h
  case nop => cases h; rfl
  case gcd | prefilt => cases h; exact ⟨_, rfl⟩
  case modmul | modexp | modinv | decomp =>
    simp only [modmulBody, modexpBody, modinvBody, decompBody] at h
    split_ifs at h
    cases h
    exact ⟨_, rfl⟩
  case mrround =>
    unfold mrroundBody at h
    split_ifs at h <;> cases h
    · exact ⟨_, .inl rfl, rfl⟩
    · exact ⟨_, .inr rfl, rfl⟩
  case randodd =>
    obtain ⟨c, p', -, h⟩ := Ran.bind_eq_ok.1 h
    cases h
    exact ⟨c, rfl⟩
  case isprimeRounds | isprimeAuto => exact isprimeBody_result h
  case genprimeRounds | genprimeAuto => exact genprimeBody_result h

/-- The commands that assign R. -/
theorem resultRow_writes_R {i : Instr} {res : Result} (row : resultRow i res) (hr : res.r ≠ none) :
    i = .modmul ∨ i = .modexp ∨ i = .modinv ∨ i = .gcd ∨ (∃ len, i = .randodd len) ∨
      (∃ len k, i = .genprimeRounds len k) ∨ (∃ len, i = .genprimeAuto len) := by
  cases i
  case nop => cases row; exact absurd rfl hr
  case decomp | prefilt => obtain ⟨_, rfl⟩ := row; exact absurd rfl hr
  case mrround | isprimeRounds | isprimeAuto => obtain ⟨_, -, rfl⟩ := row; exact absurd rfl hr
  all_goals simp

/-- DECOMP alone assigns T and S. -/
theorem resultRow_writes_TS {i : Instr} {res : Result} (row : resultRow i res) (hts : res.ts ≠ none) : i = .decomp := by
  cases i
  case decomp => rfl
  case nop => cases row; exact absurd rfl hts
  case mrround | isprimeRounds | isprimeAuto => obtain ⟨_, -, rfl⟩ := row; exact absurd rfl hts
  all_goals obtain ⟨_, rfl⟩ := row; exact absurd rfl hts

/-- Settles O30: a completion leaves R33's row of its command, read off the body's result; a failure or a hold assigns none of
R, T and S. -/
theorem resultRegistersHaveTheirWriters : Obligations.ResultRegistersHaveTheirWriters := by
  unfold Obligations.ResultRegistersHaveTheirWriters
  intro i s t h
  rcases exec_cases h with ⟨res, p, hres, rfl⟩ | ⟨k, p, -, rfl⟩ | ⟨p, -, rfl⟩
  · have row := bodyOf_result hres
    refine ⟨fun hR => resultRow_writes_R row fun hr => hR (by simp [hr]),
      fun hTS => resultRow_writes_TS row fun hts => by simp [hts] at hTS, fun _ _ => ?_⟩
    rw [State.complete_verdict]
    refine ⟨?_, ?_, ?_, ?_⟩
    · rintro (rfl | rfl | rfl | rfl | rfl | rfl | ⟨len, rfl⟩)
      · cases row; rfl
      all_goals obtain ⟨_, rfl⟩ := row; rfl
    · rintro rfl
      obtain ⟨n, rfl⟩ := row
      exact prefilter_cases n
    · rintro (rfl | ⟨k, rfl⟩ | rfl) <;> obtain ⟨v, hv, rfl⟩ := row <;> exact hv
    · rintro (⟨len, k, rfl⟩ | ⟨len, rfl⟩) <;> obtain ⟨c, rfl⟩ := row <;> rfl
  · simp
  · exact ⟨fun hR => absurd rfl hR, by simp, fun hb hd => by simp [hb] at hd⟩

/-! ## Host writes of CMD and STATUS, and the sequencer's move -/

/-- A host write that answers a next state is the write of its slot. -/
theorem perform_hostWrite {s t : State} {off : Nat} {v : Word} (h : perform (.hostWrite off v) s = .next t) :
    t = s.writeSlot off (slotAt s.nlimb off) v :=
  (onPort_cases h).1

/-- In IDLE and DONE a CMD write is accepted (R210). -/
theorem State.writeSlot_cmd_accepted {s : State} (off : Nat) (w : Word) (h : s.phase = .idle ∨ s.phase = .done) :
    s.writeSlot off .cmd w = s.accept w := by
  rcases h with h | h <;> simp [State.writeSlot, h]

/-- In BUSY and ERR a CMD write is ignored and sets OVR (R210). -/
theorem State.writeSlot_cmd_ignored {s : State} (off : Nat) (w : Word) (h : s.phase = .busy ∨ s.phase = .err) :
    s.writeSlot off .cmd w = s.overrun off w := if_pos h

/-- Outside BUSY a STATUS write acts bit by bit (R237 to R239). -/
theorem State.writeSlot_status {s : State} (off : Nat) (v : Word) (h : s.phase ≠ .busy) :
    s.writeSlot off .status v = s.clearStatus v := if_neg h

/-- A STATUS write takes ERR and DONE to IDLE, each by its own bit (R237, R238). -/
@[simp] theorem State.clearStatus_phase (s : State) (v : Word) :
    (s.clearStatus v).phase =
      if (v.getLsbD 2 = true ∧ s.phase = .err) ∨ (v.getLsbD 1 = true ∧ s.phase = .done) then .idle else s.phase := by
  rw [State.clearStatus, State.clearOvr_phase, State.dismiss_phase, State.acknowledge_phase]
  by_cases he : v.getLsbD 2 = true ∧ s.phase = .err
  · rw [if_pos he, if_neg nofun, if_pos (.inl he)]
  · simp only [he, false_or, if_false]

/-- A STATUS write clears OVR by bit 3 alone (R239). -/
@[simp] theorem State.clearStatus_ovr (s : State) (v : Word) :
    (s.clearStatus v).ovr = if v.getLsbD 3 = true then false else s.ovr := by
  simp [State.clearStatus]

/-- The command running in BUSY holds, completes or fails (R211, R225, R81). -/
theorem sequencerStep_of_busy {s t : State} (hb : s.phase = .busy) (h : sequencerStep s = .next t) :
    t = s ∨ (t.phase = .done ∧ ∃ res, t.history.head? = some (.completed res)) ∨
      (t.phase = .err ∧ ∃ f : Failure, t.errcode = f.code ∧ t.history.head? = some (.failed f)) := by
  rcases sequencerStep_cases h with ⟨hn, -⟩ | ⟨-, -, rfl⟩ | ⟨i, -, -, hx⟩
  · exact absurd hb hn
  · exact .inr (.inr ⟨rfl, _, rfl, rfl⟩)
  · rcases exec_cases hx with ⟨res, p, -, rfl⟩ | ⟨f, p, -, rfl⟩ | ⟨p, -, rfl⟩
    · exact .inr (.inl ⟨rfl, res, rfl⟩)
    · exact .inr (.inr ⟨rfl, f, rfl, rfl⟩)
    · exact .inl rfl

/-! ## The phase transitions (R30) -/

/-- A host write changes the phase only as an accepted CMD write or as an acknowledging or dismissing STATUS write. -/
theorem State.writeSlot_changes_phase {s : State} {off : Nat} {slot : Slot} {v : Word}
    (h : (s.writeSlot off slot v).phase ≠ s.phase) :
    (slot = .cmd ∧ (s.phase = .idle ∨ s.phase = .done)) ∨
    (slot = .status ∧ ((v.getLsbD 2 = true ∧ s.phase = .err) ∨ (v.getLsbD 1 = true ∧ s.phase = .done))) := by
  rcases writeSlot_cases s off slot v with e | ⟨-, e⟩ | ⟨-, e⟩ | ⟨hs, -, e⟩ | ⟨hs, hp, -⟩ | ⟨x, i, -, -, -, e⟩
  case inr.inr.inr.inl => rw [e, State.clearStatus_phase] at h; exact .inr ⟨hs, by_contra fun hn => h (if_neg hn)⟩
  case inr.inr.inr.inr.inl => exact .inl ⟨hs, hp⟩
  all_goals rw [e] at h; simp [State.writeLimb] at h

/-- The moves that change the phase. -/
theorem perform_changes_phase {e : Event} {s t : State} (h : perform e s = .next t) (hne : t.phase ≠ s.phase) :
    (∃ k, e = .rst k) ∨ (∃ w, e = .hostWrite 0x000 w ∧ (s.phase = .idle ∨ s.phase = .done)) ∨
    (e = .sequencer ∧ s.phase = .busy) ∨ (∃ v, e = .hostWrite 0x004 v ∧ v.getLsbD 1 = true ∧ s.phase = .done) ∨
    (∃ v, e = .hostWrite 0x004 v ∧ v.getLsbD 2 = true ∧ s.phase = .err) := by
  rcases perform_cases h with ⟨off, rfl, -, -, rfl⟩ | ⟨off, v, rfl, -, -, rfl⟩ | ⟨rfl, hs⟩ | ⟨v, rfl, rfl⟩ | ⟨rfl, rfl⟩ |
    ⟨k, rfl, rfl⟩
  · exact absurd rfl hne
  · obtain ⟨cmdAt, statusAt, -⟩ := slotAt_control (n := s.nlimb) (off := off)
    rcases State.writeSlot_changes_phase hne with ⟨hs, hp⟩ | ⟨hs, ⟨hv, hp⟩ | ⟨hv, hp⟩⟩
    · obtain rfl := cmdAt hs
      exact .inr (.inl ⟨v, rfl, hp⟩)
    · obtain rfl := statusAt hs
      exact .inr (.inr (.inr (.inr ⟨v, rfl, hv, hp⟩)))
    · obtain rfl := statusAt hs
      exact .inr (.inr (.inr (.inl ⟨v, rfl, hv, hp⟩)))
  · rcases sequencerStep_cases hs with ⟨-, rfl⟩ | ⟨hb, -⟩ | ⟨i, hb, -⟩
    · exact absurd rfl hne
    · exact .inr (.inr (.inl ⟨rfl, hb⟩))
    · exact .inr (.inr (.inl ⟨rfl, hb⟩))
  · exact absurd rfl hne
  · exact absurd rfl hne
  · exact .inl ⟨k, rfl⟩

/-- Settles O51: each row of R30 by the rule of its move, and no other transition by the split over the agents. -/
theorem phaseTransitionsAreTheListedOnes : Obligations.PhaseTransitionsAreTheListedOnes := by
  unfold Obligations.PhaseTransitionsAreTheListedOnes
  intro e s t h
  refine ⟨?_, ?_, ?_, ?_, ?_, ?_, perform_changes_phase h⟩
  · rintro k rfl
    cases h
    rfl
  · rintro w rfl hp
    obtain rfl : t = s.accept w := (perform_hostWrite h).trans (State.writeSlot_cmd_accepted _ w hp)
    rfl
  · rintro w rfl hp
    obtain rfl : t = s.overrun 0x000 w := (perform_hostWrite h).trans (State.writeSlot_cmd_ignored _ w hp)
    exact ⟨rfl, rfl⟩
  · rintro rfl hb
    exact sequencerStep_of_busy hb h
  all_goals
    rintro v rfl hv hp
    obtain rfl : t = s.clearStatus v := (perform_hostWrite h).trans (State.writeSlot_status _ v (by simp [hp]))
    simp [hv, hp]

/-! ## The overrun flag (R32) -/

/-- A slot that the host may write as a limb stands at the offset of an operand limb (R61, R62). -/
theorem operandLimb_of_slotAt {s : State} {off i : Nat} {x : DataReg} (h4 : off % 4 = 0)
    (h : slotAt s.nlimb off = .limb x i) (hx : x.hostWritable = true) : ∃ y j, operandLimb s y j off := by
  obtain ⟨lo, hi⟩ := slotAt_writable h hx
  have used : off % 0x200 / 4 < s.width / 32 := by
    by_contra hn
    rw [slotAt_unused (n := s.nlimb) lo (by omega) (not_lt.1 hn)] at h
    cases h
  by_cases hN : off < 0x400
  · exact ⟨.N, off % 0x200 / 4, used, .inl ⟨rfl, by omega⟩⟩
  by_cases hA : off < 0x600
  · exact ⟨.A, off % 0x200 / 4, used, .inr (.inl ⟨rfl, by omega⟩)⟩
  · exact ⟨.B, off % 0x200 / 4, used, .inr (.inr ⟨rfl, by omega⟩)⟩

/-- The offset of an operand limb is that of a slot the host may write (R61, R62). -/
theorem slotAt_operandLimb {s : State} {off i : Nat} {x : DataReg} (hp : s.parametersLegal) (h : operandLimb s x i off) :
    slotAt s.nlimb off = .limb x i ∧ x.hostWritable = true := by
  obtain ⟨-, -, hw, -⟩ := hp
  have hn : s.nlimb ≤ 128 := by unfold State.nlimb; omega
  obtain ⟨hi, ⟨rfl, rfl⟩ | ⟨rfl, rfl⟩ | ⟨rfl, rfl⟩⟩ := h
  · exact ⟨slotAt_N hn hi, rfl⟩
  · exact ⟨slotAt_A hn hi, rfl⟩
  · exact ⟨slotAt_B hn hi, rfl⟩

/-- A write that the phase makes the block ignore is an overrun (R32, R72). -/
theorem State.writeSlot_of_ignored {s : State} {off : Nat} (v : Word) (hp : s.parametersLegal)
    (h : writeIgnoredByPhase s off) : s.writeSlot off (slotAt s.nlimb off) v = s.overrun off v := by
  rcases h with ⟨hb, rfl | rfl | ⟨x, i, hl⟩⟩ | ⟨he, rfl⟩
  · exact State.writeSlot_cmd_ignored _ v (.inl hb)
  · exact if_pos hb
  · obtain ⟨hslot, hx⟩ := slotAt_operandLimb hp hl
    rw [hslot]
    simp [State.writeSlot, hx, hb]
  · exact State.writeSlot_cmd_ignored _ v (.inr he)

/-- The slots whose write can raise OVR, and the phases in which it does. -/
theorem State.writeSlot_sets_ovr {s : State} {off : Nat} {slot : Slot} {v : Word} (h0 : s.ovr = false)
    (h : (s.writeSlot off slot v).ovr = true) :
    (s.phase = .busy ∧ (slot = .cmd ∨ slot = .status ∨ ∃ x i, slot = .limb x i ∧ x.hostWritable = true)) ∨
    (s.phase = .err ∧ slot = .cmd) := by
  cases slot with
  | ctrl | cap | reserved => simp [State.writeSlot, h0] at h
  | status =>
    by_cases hb : s.phase = .busy
    · exact .inl ⟨hb, .inr (.inl rfl)⟩
    · simp [State.writeSlot_status _ _ hb, h0] at h
  | cmd =>
    cases hp : s.phase with
    | busy => exact .inl ⟨rfl, .inl rfl⟩
    | err => exact .inr ⟨rfl, rfl⟩
    | idle => simp [State.writeSlot_cmd_accepted _ _ (.inl hp), h0] at h
    | done => simp [State.writeSlot_cmd_accepted _ _ (.inr hp), h0] at h
  | limb x i =>
    cases hx : x.hostWritable with
    | false => simp [State.writeSlot, hx, h0] at h
    | true =>
      by_cases hb : s.phase = .busy
      · exact .inl ⟨hb, .inr (.inr ⟨x, i, rfl, hx⟩)⟩
      · simp [State.writeSlot, State.writeLimb, hx, hb, h0] at h

/-- A write that raises OVR is one that the phase makes the block ignore. -/
theorem writeIgnoredByPhase_of_sets_ovr {s : State} {off : Nat} {v : Word} (h4 : off % 4 = 0) (h0 : s.ovr = false)
    (h : (s.writeSlot off (slotAt s.nlimb off) v).ovr = true) : writeIgnoredByPhase s off := by
  obtain ⟨cmdAt, statusAt, -⟩ := slotAt_control (n := s.nlimb) (off := off)
  rcases State.writeSlot_sets_ovr h0 h with ⟨hb, hs | hs | ⟨x, i, hs, hx⟩⟩ | ⟨he, hs⟩
  · exact .inl ⟨hb, .inl (cmdAt hs)⟩
  · exact .inl ⟨hb, .inr (.inl (statusAt hs))⟩
  · exact .inl ⟨hb, .inr (.inr (operandLimb_of_slotAt h4 hs hx))⟩
  · exact .inr ⟨he, cmdAt hs⟩

/-- A host write clears OVR only as a STATUS write of bit 3 outside BUSY (R239). -/
theorem State.writeSlot_clears_ovr {s : State} {off : Nat} {slot : Slot} {v : Word} (h1 : s.ovr = true)
    (h : (s.writeSlot off slot v).ovr = false) : slot = .status ∧ v.getLsbD 3 = true ∧ s.phase ≠ .busy := by
  rcases writeSlot_cases s off slot v with e | ⟨-, e⟩ | ⟨-, e⟩ | ⟨hs, hp, e⟩ | ⟨-, -, e⟩ | ⟨x, i, -, -, -, e⟩ <;> rw [e] at h
  case inr.inr.inr.inl => exact ⟨hs, by simpa [h1] using h, hp⟩
  all_goals simp [State.writeLimb, h1] at h

/-- No body reads OVR. -/
theorem bodyOf_ovr (i : Instr) (s : State) (b : Bool) : bodyOf i { s with ovr := b } = bodyOf i s := by cases i <;> rfl

/-- No command writes OVR, however it ends. -/
theorem exec_ovr {i : Instr} {s t : State} (h : exec i s = .next t) : t.ovr = s.ovr := by
  rcases exec_cases h with ⟨res, p, -, rfl⟩ | ⟨k, p, -, rfl⟩ | ⟨p, -, rfl⟩ <;> rfl

/-- No command depends on OVR: setting it before the command is setting it after. -/
theorem exec_with_ovr {i : Instr} {s t : State} (b : Bool) (h : exec i s = .next t) :
    exec i { s with ovr := b } = .next { t with ovr := b } := by
  rw [exec_eq_runFrame, bodyOf_ovr]
  rcases exec_cases h with ⟨res, p, hr, rfl⟩ | ⟨k, p, hr, rfl⟩ | ⟨p, hr, rfl⟩
  · exact runFrame_ok hr
  · exact runFrame_raise hr
  · exact runFrame_wait hr

/-- The sequencer's move does not write OVR. -/
theorem sequencerStep_ovr {s t : State} (h : sequencerStep s = .next t) : t.ovr = s.ovr := by
  rcases sequencerStep_cases h with ⟨-, rfl⟩ | ⟨-, -, rfl⟩ | ⟨i, -, -, hx⟩
  · rfl
  · rfl
  · exact exec_ovr hx

/-- The moves that change OVR: a host write, and reset, which leaves it 0. -/
theorem perform_changes_ovr {e : Event} {s t : State} (h : perform e s = .next t) (hne : t.ovr ≠ s.ovr) :
    (∃ off v, e = .hostWrite off v ∧ off % 4 = 0 ∧ t = s.writeSlot off (slotAt s.nlimb off) v) ∨
    ((∃ k, e = .rst k) ∧ t.ovr = false) := by
  rcases perform_cases h with ⟨off, -, -, -, rfl⟩ | ⟨off, v, he, h4, -, ht⟩ | ⟨-, hs⟩ | ⟨v, -, rfl⟩ | ⟨-, rfl⟩ | ⟨k, he, rfl⟩
  · exact absurd rfl hne
  · exact .inl ⟨off, v, he, h4, ht⟩
  · exact absurd (sequencerStep_ovr hs) hne
  · exact absurd rfl hne
  · exact absurd rfl hne
  · exact .inr ⟨⟨k, he⟩, rfl⟩

/-- Settles O54: OVR changes by host writes and reset alone, and a write raises it exactly when the phase makes it ignored. -/
theorem overrunIsSticky : Obligations.OverrunIsSticky := by
  unfold Obligations.OverrunIsSticky
  refine ⟨fun e s t hp h => ⟨?_, fun h0 h1 => ?_, fun h1 h0 => ?_⟩, fun i s t b h => ⟨exec_ovr h, exec_with_ovr b h⟩⟩
  · rintro off v rfl hi
    rw [perform_hostWrite h, State.writeSlot_of_ignored v hp hi]
    rfl
  · rcases perform_changes_ovr h (by simp [h0, h1]) with ⟨off, v, rfl, h4, rfl⟩ | ⟨-, hf⟩
    · exact ⟨off, v, rfl, writeIgnoredByPhase_of_sets_ovr h4 h0 h1⟩
    · simp [h1] at hf
  · rcases perform_changes_ovr h (by simp [h0, h1]) with ⟨off, v, rfl, -, rfl⟩ | ⟨hr, -⟩
    · obtain ⟨hs, hv, hb⟩ := State.writeSlot_clears_ovr h1 h0
      obtain rfl := slotAt_control.2.1 hs
      exact .inl ⟨v, rfl, hv, hb⟩
    · exact .inr hr

end Sys2Proof.Machine

/-! # The statements on the host port

R72 (what a host write does, by offset and phase). -/

namespace Sys2Proof.Machine

open Sys2Proof.Slice0

/-! ## The slots of the offsets that the statements name (R61 to R64) -/

/-- A legal W has at most 128 limbs (R7), so the limbs of a register stay inside its region of the window. -/
theorem State.nlimb_le {s : State} (hp : s.parametersLegal) : s.nlimb ≤ 128 := by
  obtain ⟨-, -, hw, -⟩ := hp
  unfold State.nlimb
  omega

/-- A reserved offset is that of a reserved slot (R61, R62, R63). -/
theorem slotAt_reservedOffset {s : State} {off : Nat} (h : reservedOffset s off) : slotAt s.nlimb off = .reserved := by
  obtain ⟨h4, ⟨lo, hi⟩ | ⟨lo, -⟩ | ⟨lo, hi, unused⟩⟩ := h
  · exact slotAt_outside (.inl ⟨by omega, by omega⟩)
  · exact slotAt_outside (.inr (by omega))
  · exact slotAt_unused lo (by omega) unused

/-- The offset of a result limb is that of a slot the host may not write (R61, R62, R64). -/
theorem slotAt_resultLimb {s : State} {off i : Nat} {x : DataReg} (hp : s.parametersLegal) (h : resultLimb s x i off) :
    slotAt s.nlimb off = .limb x i ∧ x.hostWritable = false := by
  have hn := State.nlimb_le hp
  rcases h with ⟨hi, ⟨rfl, rfl⟩ | ⟨rfl, rfl⟩⟩ | ⟨rfl, rfl, rfl⟩
  · exact ⟨slotAt_R hn hi, rfl⟩
  · exact ⟨slotAt_T hn hi, rfl⟩
  · exact ⟨slotAt_S _, rfl⟩

/-! ## The offsets that the statements name are on the port (R69) -/

/-- A reserved offset is a word of the window. -/
theorem onWindow_of_reservedOffset {s : State} {off : Nat} (h : reservedOffset s off) : off % 4 = 0 ∧ off ≤ 0xFFC := by
  obtain ⟨h4, h⟩ := h
  exact ⟨h4, by omega⟩

/-- An operand limb is a word of the window. -/
theorem onWindow_of_operandLimb {s : State} {off i : Nat} {x : DataReg} (hp : s.parametersLegal)
    (h : operandLimb s x i off) : off % 4 = 0 ∧ off ≤ 0xFFC := by
  have hn : s.width / 32 ≤ 128 := State.nlimb_le hp
  obtain ⟨hi, ⟨-, rfl⟩ | ⟨-, rfl⟩ | ⟨-, rfl⟩⟩ := h <;> omega

/-- A result limb is a word of the window. -/
theorem onWindow_of_resultLimb {s : State} {off i : Nat} {x : DataReg} (hp : s.parametersLegal)
    (h : resultLimb s x i off) : off % 4 = 0 ∧ off ≤ 0xFFC := by
  have hn : s.width / 32 ≤ 128 := State.nlimb_le hp
  rcases h with ⟨hi, ⟨-, rfl⟩ | ⟨-, rfl⟩⟩ | ⟨-, -, rfl⟩ <;> omega

/-- An offset whose write the phase makes the block ignore is a word of the window. -/
theorem onWindow_of_writeIgnoredByPhase {s : State} {off : Nat} (hp : s.parametersLegal)
    (h : writeIgnoredByPhase s off) : off % 4 = 0 ∧ off ≤ 0xFFC := by
  rcases h with ⟨-, rfl | rfl | ⟨x, i, hl⟩⟩ | ⟨-, rfl⟩
  · decide
  · decide
  · exact onWindow_of_operandLimb hp hl
  · decide

/-! ## What a host write answers (R72) -/

/-- A host write of a word of the window is the write of the slot that stands there. -/
theorem hostWrite_onWindow {s : State} {off : Nat} (v : Word) (h : off % 4 = 0 ∧ off ≤ 0xFFC) :
    hostWrite off v s = .next (s.writeSlot off (slotAt s.nlimb off) v) :=
  onPort_of_word _ h.1 h.2

/-- A limb of a register that the host may not write ignores the write, in every phase. -/
theorem State.writeSlot_result {s : State} (off i : Nat) {x : DataReg} (v : Word) (hx : x.hostWritable = false) :
    s.writeSlot off (.limb x i) v = s.record (.ignored off v) := by
  simp [State.writeSlot, hx]

/-- Outside BUSY a limb of an operand takes the word. -/
theorem State.writeSlot_operand {s : State} (off i : Nat) {x : DataReg} (v : Word) (hx : x.hostWritable = true)
    (h : s.phase ≠ .busy) : s.writeSlot off (.limb x i) v = s.writeLimb x i v := by
  simp [State.writeSlot, hx, h]

/-- The offsets whose write is ignored in every phase, with no flag: CAP, the reserved ones and the result limbs. -/
theorem hostWrite_readOnly {s : State} {off : Nat} (v : Word) (hp : s.parametersLegal)
    (h : off = 0x00C ∨ reservedOffset s off ∨ ∃ x i, resultLimb s x i off) :
    hostWrite off v s = .next (s.record (.ignored off v)) := by
  rcases h with rfl | hr | ⟨x, i, hl⟩
  · rfl
  · rw [hostWrite_onWindow v (onWindow_of_reservedOffset hr), slotAt_reservedOffset hr]
    rfl
  · obtain ⟨hs, hx⟩ := slotAt_resultLimb hp hl
    rw [hostWrite_onWindow v (onWindow_of_resultLimb hp hl), hs, State.writeSlot_result off i v hx]

/-- Settles O44: each offset's slot is written by the rule of that slot, and the phase chooses between overrun and effect. -/
theorem hostWritesActByOffsetAndPhase : Obligations.HostWritesActByOffsetAndPhase := by
  unfold Obligations.HostWritesActByOffsetAndPhase
  intro s v hp
  refine ⟨rfl, fun off h => hostWrite_readOnly v hp h, fun off h => ?_, fun hb he => ?_, fun hb => ?_, fun x i off h hb => ?_⟩
  · rw [hostWrite_onWindow v (onWindow_of_writeIgnoredByPhase hp h), State.writeSlot_of_ignored v hp h]
    rfl
  · have accepting : s.phase = .idle ∨ s.phase = .done := by
      cases hs : s.phase with
      | idle => exact .inl rfl
      | done => exact .inr rfl
      | busy => exact absurd hs hb
      | err => exact absurd hs he
    exact congrArg _ (State.writeSlot_cmd_accepted 0x000 v accepting)
  · exact congrArg _ (State.writeSlot_status 0x004 v hb)
  · obtain ⟨hs, hx⟩ := slotAt_operandLimb hp h
    rw [hostWrite_onWindow v (onWindow_of_operandLimb hp h), hs, State.writeSlot_operand off i v hx hb]
    rfl

end Sys2Proof.Machine

/-! # The statements on the primality tester

R131 (DECOMP), R133 (PREFILT), R136 (MRROUND). -/

namespace Sys2Proof.Machine

/-! ## Commands that leave the entropy port alone -/

/-- A command whose body reaches `done` without a draw completes on the state it started from. -/
theorem exec_of_ok {i : Instr} {s : State} {res : Result}
    (h : bodyOf i s ⟨s.entropy, []⟩ = .ok res ⟨s.entropy, []⟩) : exec i s = .next (s.complete res) :=
  (exec_eq_runFrame i s).trans (runFrame_ok h)

/-- A command whose body raises without a draw enters the trap from the state it started from. -/
theorem exec_of_raise {i : Instr} {s : State} {k : Failure}
    (h : bodyOf i s ⟨s.entropy, []⟩ = .raise k ⟨s.entropy, []⟩) : exec i s = .next (s.trapEntry k) :=
  (exec_eq_runFrame i s).trans (runFrame_raise h)

/-! ## The decomposition (R130) -/

/-- The decomposition of `n >= 2`: a power of two times an odd number. -/
theorem decomp_spec {n : Nat} (h : 2 ≤ n) : n - 1 = 2 ^ (decomp n).1 * (decomp n).2 ∧ (decomp n).2 % 2 = 1 := by
  obtain ⟨k, hk, ht, hodd⟩ := decompLoop_spec (n - 1) (n - 1) 0 (by omega) le_rfl
  rw [Nat.zero_add] at hk
  rw [← hk] at ht
  exact ⟨ht, hodd⟩

/-- The decomposition is the only one. -/
theorem decomp_eq {n e t : Nat} (h : 2 ≤ n) (hn : n - 1 = 2 ^ e * t) (ht : t % 2 = 1) : decomp n = (e, t) := by
  obtain ⟨hd, hodd⟩ := decomp_spec h
  obtain ⟨he, ht⟩ := two_pow_mul_odd_unique (hd.symm.trans hn) hodd ht
  exact Prod.ext he ht

/-- DECOMP refuses an N below 2. -/
theorem decompBody_bad_modulus {s : State} (p : Port) (h : s.N < 2) : decompBody s p = .raise .invalidInput p := if_pos h

/-- Inside its domain DECOMP leaves the decomposition in T and S. -/
theorem decompBody_in_domain {s : State} {e t : Nat} (p : Port) (h : 2 ≤ s.N) (hn : s.N - 1 = 2 ^ e * t)
    (ht : t % 2 = 1) : decompBody s p = .ok { ts := some (t, e) } p := by
  rw [decompBody, if_neg (Nat.not_lt.2 h), decomp_eq h hn ht]

/-- Settles O12: the halving loop finds a decomposition, and there is only one. -/
theorem decompLeavesTheDecomposition : Obligations.DecompLeavesTheDecomposition := by
  unfold Obligations.DecompLeavesTheDecomposition
  refine ⟨by decide, fun s => ⟨fun small => ?_, fun e t h hn ht => ?_, fun h => ?_⟩⟩
  · exact exec_of_raise (i := .decomp) (decompBody_bad_modulus _ small)
  · exact exec_of_ok (i := .decomp) (decompBody_in_domain _ h hn ht)
  · exact ⟨_, _, decomp_spec h⟩

/-! ## The fast rejection (R132) -/

/-- Numbers below 2 are not prime. -/
theorem prefilter_of_lt_two {n : Nat} (h : n < 2) : prefilter n = .composite := if_pos h

/-- An even number above 2 is not prime. -/
theorem prefilter_of_even {n : Nat} (h : 2 < n) (even : n % 2 = 0) : prefilter n = .composite := by
  unfold prefilter; rw [if_neg (by omega), if_neg (by omega), if_pos even]

/-- Settles O13: the verdict is that of the fast rejection, range by range. -/
theorem prefiltLeavesTheFastRejection : Obligations.PrefiltLeavesTheFastRejection := by
  unfold Obligations.PrefiltLeavesTheFastRejection
  refine ⟨by decide, fun s => ⟨prefilter s.N, ?_, prefilter_of_lt_two, fun two => ?_, prefilter_of_even,
    prefilter_of_odd⟩⟩
  · exact exec_of_ok (i := .prefilt) (res := { verdict := prefilter s.N }) rfl
  · rw [two]; decide

/-! ## One round (R136) -/

/-- The verdict that MRROUND leaves for what its round returns (R136). -/
def RoundResult.verdict : RoundResult → Verdict
  | .pass => .prime
  | .composite => .composite

/-- MRROUND refuses an N outside the domain of the round. -/
theorem mrroundBody_bad_modulus {s : State} (p : Port) (h : s.N < 5 ∨ s.N % 2 = 0) :
    mrroundBody s p = .raise .invalidInput p := if_pos h

/-- MRROUND refuses a witness outside `[2, N - 2]`: whether N is in the domain or not, the failure is the same. -/
theorem mrroundBody_bad_witness {s : State} (p : Port) (h : s.A < 2 ∨ s.A > s.N - 2) :
    mrroundBody s p = .raise .invalidInput p := by
  by_cases hN : s.N < 5 ∨ s.N % 2 = 0
  · exact mrroundBody_bad_modulus p hN
  · exact (if_neg hN).trans (if_pos h)

/-- Inside its domain MRROUND leaves the verdict of the round. -/
theorem mrroundBody_in_domain {s : State} (p : Port) (hN : 5 ≤ s.N) (odd : s.N % 2 = 1) (hA : 2 ≤ s.A)
    (hA' : s.A ≤ s.N - 2) : mrroundBody s p = .ok { verdict := (mrRound s.N s.A).verdict } p := by
  unfold mrroundBody
  rw [if_neg (by omega), if_neg (by omega)]
  cases mrRound s.N s.A <;> rfl

/-- Settles O14: both failures are InvalidInput, so they may overlap; in the domain the round gives the verdict. -/
theorem mrroundLeavesTheRoundsVerdict : Obligations.MrroundLeavesTheRoundsVerdict := by
  unfold Obligations.MrroundLeavesTheRoundsVerdict
  refine ⟨by decide, fun s => ⟨fun h => ?_, fun h => ?_, fun hN odd hA hA' => ⟨(mrRound s.N s.A).verdict, ?_, ?_, ?_⟩⟩⟩
  · exact exec_of_raise (i := .mrround) (mrroundBody_bad_modulus _ h)
  · exact exec_of_raise (i := .mrround) (mrroundBody_bad_witness _ h)
  · exact exec_of_ok (i := .mrround) (mrroundBody_in_domain _ hN odd hA hA')
  · intro pass; rw [pass]; rfl
  · intro composite; rw [composite]; rfl

end Sys2Proof.Machine

/-! # The statements on the random odd generator

R161 (RANDODD). -/

namespace Sys2Proof.Machine

open Sys2Proof.Slice0

/-! ## One candidate (R160) -/

/-- A candidate's length is checked before its draw. -/
theorem randomOdd_bad_length {w len : Nat} (p : Port) (h : len < 2 ∨ w < len) :
    randomOdd w len p = .raise .invalidInput p := by
  rcases randomOdd_cases w len p with ⟨-, e⟩ | ⟨h2, hw, -⟩
  · exact e
  · omega

/-- At a legal length the candidate is its draw, with the two bits forced. -/
theorem randomOdd_good_length {w len : Nat} (p : Port) (h2 : 2 ≤ len) (hw : len ≤ w) :
    randomOdd w len p = (entropyDraw w 0 (2 ^ len - 1) p).bind fun v p' => .ok (candidateOf len v) p' :=
  (if_neg (Nat.not_lt.2 h2)).trans (if_neg (Nat.not_lt.2 hw))

/-- A candidate from an answer in range. -/
theorem randomOdd_in_range {s : State} {len v : Nat} {rest : List Nat} (drawn : List Draw) (h2 : 2 ≤ len)
    (hw : len ≤ s.width) (h : answered s v ≤ 2 ^ len - 1) :
    randomOdd s.width len ⟨v :: rest, drawn⟩ =
      .ok (candidate s len v) ⟨rest, ⟨0, 2 ^ len - 1, answered s v⟩ :: drawn⟩ := by
  rw [randomOdd_good_length _ h2 hw, entropyDraw_in_range drawn (Nat.zero_le _) h]
  rfl

/-- No candidate from an answer out of range. -/
theorem randomOdd_out_of_range {s : State} {len v : Nat} {rest : List Nat} (drawn : List Draw) (h2 : 2 ≤ len)
    (hw : len ≤ s.width) (h : 2 ^ len - 1 < answered s v) :
    randomOdd s.width len ⟨v :: rest, drawn⟩ =
      .raise .entropyRange ⟨rest, ⟨0, 2 ^ len - 1, answered s v⟩ :: drawn⟩ := by
  rw [randomOdd_good_length _ h2 hw, entropyDraw_out_of_range drawn (.inr h)]
  rfl

/-! ## The body of RANDODD (R161) -/

/-- RANDODD refuses a bad length before any draw. -/
theorem randoddBody_bad_length {s : State} {len : Nat} (p : Port) (h : len < 2 ∨ s.width < len) :
    randoddBody len s p = .raise .invalidInput p := by
  rw [randoddBody, randomOdd_bad_length p h, Ran.bind_raise]

/-- RANDODD leaves the candidate of an answer in range in R. -/
theorem randoddBody_in_range {s : State} {len v : Nat} {rest : List Nat} (drawn : List Draw) (h2 : 2 ≤ len)
    (hw : len ≤ s.width) (h : answered s v ≤ 2 ^ len - 1) :
    randoddBody len s ⟨v :: rest, drawn⟩ =
      .ok { r := some (candidate s len v) } ⟨rest, ⟨0, 2 ^ len - 1, answered s v⟩ :: drawn⟩ := by
  rw [randoddBody, randomOdd_in_range drawn h2 hw h, Ran.bind_ok]

/-- RANDODD fails on an answer out of range, which is spent. -/
theorem randoddBody_out_of_range {s : State} {len v : Nat} {rest : List Nat} (drawn : List Draw) (h2 : 2 ≤ len)
    (hw : len ≤ s.width) (h : 2 ^ len - 1 < answered s v) :
    randoddBody len s ⟨v :: rest, drawn⟩ =
      .raise .entropyRange ⟨rest, ⟨0, 2 ^ len - 1, answered s v⟩ :: drawn⟩ := by
  rw [randoddBody, randomOdd_out_of_range drawn h2 hw h, Ran.bind_raise]

/-- Settles O21: the length is checked first, and the one draw decides between completion and EntropyRange. -/
theorem randoddLeavesTheForcedCandidate : Obligations.RandoddLeavesTheForcedCandidate := by
  unfold Obligations.RandoddLeavesTheForcedCandidate
  refine fun len s => ⟨fun bad => ?_, fun v rest h2 hw hent => ⟨fun inRange => ?_, fun outOfRange => ?_⟩⟩
  · exact exec_of_raise (i := .randodd len) (randoddBody_bad_length _ bad)
  · have body := randoddBody_in_range (rest := rest) [] h2 hw inRange
    rw [← hent] at body
    exact (exec_eq_runFrame (.randodd len) s).trans (runFrame_ok body)
  · have body := randoddBody_out_of_range (rest := rest) [] h2 hw outOfRange
    rw [← hent] at body
    exact (exec_eq_runFrame (.randodd len) s).trans (runFrame_raise body)

end Sys2Proof.Machine

/-! # The statements on the prime generator

R172 (what a completed GENPRIME leaves). -/

namespace Sys2Proof.Machine

open Sys2Proof.Slice0

/-! ## The candidate (R160) -/

/-- The lowest bit of a candidate is forced to 1. -/
theorem candidateOf_odd (len v : Nat) : candidateOf len v % 2 = 1 := by
  rw [candidateOf, Nat.or_mod_two_eq_one]
  exact .inr rfl

/-- The top bit of a candidate is forced to 1, and no bit lies above it. -/
theorem bitlen_candidateOf {len v : Nat} (h2 : 2 ≤ len) (hv : v < 2 ^ len) : bitlen (candidateOf len v) = len := by
  obtain ⟨l, rfl⟩ : ∃ l, len = l + 1 := ⟨len - 1, by omega⟩
  refine bitlen_eq_of_top_bit (Nat.right_le_or.trans Nat.left_le_or) ?_
  exact Nat.or_lt_two_pow (Nat.or_lt_two_pow hv (Nat.pow_lt_pow_right (by decide) (by omega)))
    (Nat.one_lt_two_pow (by omega))

/-- A value of two or more bits is at least 2. -/
theorem two_le_of_bitlen {v : Nat} (h : 2 ≤ bitlen v) : 2 ≤ v := by
  by_contra hv
  have : bitlen v ≤ 1 := (bitlen_le_iff v 1).2 (by omega)
  omega

/-- A draw that gives a candidate had a legal length, and takes one answer. -/
theorem randomOdd_ok {w len c : Nat} {p q : Port} (h : randomOdd w len p = .ok c q) :
    2 ≤ len ∧ bitlen c = len ∧ c % 2 = 1 ∧ q.answers <:+ p.answers := by
  rcases randomOdd_cases w len p with ⟨-, e⟩ | ⟨h2, -, ⟨-, e⟩ | ⟨_, _, -, -, e⟩ | ⟨a, rest, ha, hv, e⟩⟩ <;>
    rw [e] at h <;> cases h
  exact ⟨h2, bitlen_candidateOf h2 hv, candidateOf_odd _ _, ha ▸ List.suffix_cons a rest⟩

/-! ## The test of one candidate (R137) -/

/-- Rounds that end with PRIME took one passing witness each, and no other answer. -/
theorem runRounds_prime {s : State} {n : Nat} {q : Port} :
    ∀ {k : Nat} {p : Port}, runRounds s.width n k p = .ok .prime q →
      ∃ ws, p.answers = ws ++ q.answers ∧ ws.length = k ∧ allPass s n ws
  | 0, p, h => by cases h; exact ⟨[], rfl, rfl, by simp [allPass]⟩
  | k + 1, p, h => by
    rw [runRounds] at h
    rcases entropyDraw_cases s.width 2 (n - 2) p with ⟨-, e⟩ | ⟨_, _, -, -, e⟩ | ⟨a, rest, ha, lo, hi, e⟩ <;> rw [e] at h
    · cases h
    · cases h
    · rw [Ran.bind_ok] at h
      cases hr : mrRound n (a % 2 ^ s.width) with
      | composite => simp [hr] at h
      | pass =>
        obtain ⟨ws, hws, hk, pass⟩ := runRounds_prime (k := k) (by simpa [hr] using h)
        exact ⟨a :: ws, by rw [ha, List.cons_append, ← hws], by simp [hk], List.forall_mem_cons.2 ⟨⟨lo, hi, hr⟩, pass⟩⟩

/-- An odd number from 3 on that the whole test reports as PRIME passed every one of its rounds. -/
theorem isProbablePrime_prime {s : State} {n : Nat} {rc : RoundCount} {p q : Port} (h3 : 3 ≤ n) (odd : n % 2 = 1)
    (h : isProbablePrime s.width n rc p = .ok .prime q) :
    ∃ ws, p.answers = ws ++ q.answers ∧ ws.length = roundsOf rc n ∧ allPass s n ws := by
  rcases isProbablePrime_cases s.width n rc p with ⟨hn, -⟩ | ⟨-, e⟩ | ⟨-, -, e⟩
  · exact absurd (prefilter_of_odd h3 odd) hn
  · rw [e] at h; cases h
  · exact runRounds_prime (e ▸ h)

/-! ## The search (R171) -/

/-- A run leaves a suffix of the answers it was given. -/
theorem Ran.moves.answers_suffix {α : Type} {w n : Nat} {P : Draw → Prop} {p : Port} {x : Ran α} (h : x.moves w n P p) :
    x.port.answers <:+ p.answers := by
  obtain ⟨taken, -, ⟨ha, -, -⟩, -⟩ := h
  exact ⟨taken, ha.symm⟩

/-- The whole test leaves a suffix of the answers it was given. -/
theorem isProbablePrime_answers_suffix {w n : Nat} {rc : RoundCount} {v : Verdict} {p q : Port}
    (h : isProbablePrime w n rc p = .ok v q) : q.answers <:+ p.answers := by
  have moves := isProbablePrime_moves (w := w) (n := n) (P := fun _ => True) rc (fun _ _ => trivial) p
  rw [h] at moves
  exact moves.answers_suffix

/-- A search that succeeds ends with a trial, on what the earlier ones left of the answers, whose candidate is reported as
PRIME and is the result. -/
theorem primeTrials_last_trial {w len : Nat} {rc : RoundCount} {res : Result} {q : Port} :
    ∀ {j : Nat} {p : Port}, primeTrials w len rc j p = .ok res q →
      ∃ c p₀ p₁, p₀.answers <:+ p.answers ∧ randomOdd w len p₀ = .ok c p₁ ∧
        isProbablePrime w c rc p₁ = .ok .prime q ∧ res = { r := some c, verdict := .prime }
  | 0, p, h => by cases h
  | j + 1, p, h => by
    obtain ⟨c, p₁, hc, h⟩ := Ran.bind_eq_ok.1 h
    obtain ⟨v, p₂, hv, h⟩ := Ran.bind_eq_ok.1 h
    split at h
    · next prime => cases h; exact ⟨c, p, p₁, List.suffix_rfl, hc, prime ▸ hv, rfl⟩
    · obtain ⟨c', p₀, p₁', suffix, last⟩ := primeTrials_last_trial h
      obtain ⟨-, -, -, drawn⟩ := randomOdd_ok hc
      exact ⟨c', p₀, p₁', suffix.trans ((isProbablePrime_answers_suffix hv).trans drawn), last⟩

/-- The shape of what the search returns (R172): the length, the lowest bit, and the witnesses that the last answers are. -/
theorem primeTrials_shape {s : State} {len j : Nat} {rc : RoundCount} {res : Result} {p q : Port}
    (h : primeTrials s.width len rc j p = .ok res q) :
    ∃ c ws, res = { r := some c, verdict := .prime } ∧ bitlen c = len ∧ c % 2 = 1 ∧ ws ++ q.answers <:+ p.answers ∧
      ws.length = roundsOf rc c ∧ allPass s c ws := by
  obtain ⟨c, p₀, p₁, suffix, hc, hv, rfl⟩ := primeTrials_last_trial h
  obtain ⟨h2, hlen, odd, drawn⟩ := randomOdd_ok hc
  have : 2 ≤ c := two_le_of_bitlen (by omega)
  obtain ⟨ws, hws, hk, pass⟩ := isProbablePrime_prime (by omega) odd hv
  exact ⟨c, ws, rfl, hlen, odd, hws ▸ drawn.trans suffix, hk, pass⟩

/-! ## The command (R171, R172) -/

/-- Both forms of GENPRIME run one body, and on a candidate of its length the number of rounds is the one that the form names
(R103). -/
theorem bodyOf_runsGenprime {i : Instr} {len k : Nat} (s : State) (h : runsGenprime i len k) :
    ∃ rc, bodyOf i s = genprimeBody len rc s ∧ ∀ c, bitlen c = len → roundsOf rc c = k := by
  rcases h with rfl | ⟨rfl, rfl⟩
  · exact ⟨.given k, rfl, fun _ _ => rfl⟩
  · exact ⟨.auto, rfl, fun c hc => by rw [roundsOf, floorLog2, hc]⟩

/-- A GENPRIME that reaches `done` has searched. -/
theorem genprimeBody_ok {len : Nat} {rc : RoundCount} {s : State} {p q : Port} {res : Result}
    (h : genprimeBody len rc s p = .ok res q) : primeTrials s.width len rc (s.kRetry * len) p = .ok res q := by
  unfold genprimeBody at h
  split at h
  · cases h
  · exact h

/-- Settles O27: a completion is a search that succeeded, and its last trial gives the result its shape. -/
theorem genprimeResultsHaveTheirShape : Obligations.GenprimeResultsHaveTheirShape := by
  unfold Obligations.GenprimeResultsHaveTheirShape
  intro i len k s t hi busy h done
  rcases exec_cases h with ⟨res, p, hres, rfl⟩ | ⟨f, p, -, rfl⟩ | ⟨p, -, rfl⟩
  · obtain ⟨rc, body, rounds⟩ := bodyOf_runsGenprime s hi
    rw [body] at hres
    obtain ⟨c, ws, rfl, hlen, odd, ⟨before, hent⟩, hk, pass⟩ := primeTrials_shape (genprimeBody_ok hres)
    refine ⟨rfl, hlen, odd, before, ws, ?_, hk.trans (rounds c hlen), pass⟩
    rw [List.append_assoc]
    exact hent.symm
  · cases done
  · rw [busy] at done; cases done

end Sys2Proof.Machine

/-! # The statements on the modular inverse

R183 (GCD), R184 (MODINV). -/

namespace Sys2Proof.Machine

/-! ## Extended Euclid (R180) -/

/-- Extended Euclid returns the gcd and the coefficient of its second operand in a Bézout equation. -/
theorem egcd_spec (p e : Nat) :
    (egcd p e).1 = Nat.gcd p e ∧ ∃ x : Int, ((egcd p e).1 : Int) = p * x + e * (egcd p e).2 :=
  egcdLoop_spec p e (e + 1) p e 0 1 1 0 (Nat.lt_succ_self e) (by ring) (by ring)

/-- The gcd that extended Euclid returns is the library's. -/
theorem egcd_fst (p e : Nat) : (egcd p e).1 = Nat.gcd p e := (egcd_spec p e).1

/-! ## The inverse (R181) -/

/-- What MODINV leaves in R at completion: the Bézout coefficient, brought into `[0, n)` by the floored modulo. -/
def modInverse (n a : Nat) : Nat := ((egcd n a).2 % (n : Int)).toNat

/-- As an integer the inverse is the reduced coefficient: the floored modulo is never negative. -/
theorem modInverse_cast {n : Nat} (a : Nat) (h : 2 ≤ n) : (modInverse n a : Int) = (egcd n a).2 % (n : Int) :=
  Int.toNat_of_nonneg (Int.emod_nonneg _ (by omega))

/-- The inverse is reduced. -/
theorem modInverse_lt {n : Nat} (a : Nat) (h : 2 ≤ n) : modInverse n a < n := by
  have := Int.emod_lt_of_pos (egcd n a).2 (b := n) (by omega)
  rw [← modInverse_cast a h] at this
  omega

/-- The inverse inverts: modulo `n` the Bézout equation loses its multiple of `n`. -/
theorem modInverse_mul {n a : Nat} (h : 2 ≤ n) (coprime : Nat.gcd n a = 1) : modInverse n a * a % n = 1 := by
  obtain ⟨hg, x, bezout⟩ := egcd_spec n a
  rw [hg, coprime, Nat.cast_one] at bezout
  have : ((modInverse n a * a % n : Nat) : Int) = 1 := calc
    ((modInverse n a * a % n : Nat) : Int) = (egcd n a).2 * a % n := by
      rw [Int.natCast_mod, Nat.cast_mul, modInverse_cast a h, Int.mul_emod, Int.emod_emod, ← Int.mul_emod]
    _ = (n * x + a * (egcd n a).2) % n := by rw [Int.mul_add_emod_self_left, mul_comm]
    _ = 1 := by rw [← bezout]; exact Int.emod_eq_of_lt (by decide) (by omega)
  exact_mod_cast this

/-- Modulo a number coprime to it, `a` has at most one reduced inverse. -/
theorem reduced_inverse_unique {n a d d' : Nat} (coprime : Nat.gcd n a = 1) (hd : d < n) (hd' : d' < n)
    (h : d * a % n = 1) (h' : d' * a % n = 1) : d' = d :=
  (Nat.ModEq.cancel_right_of_coprime coprime (h'.trans h.symm)).eq_of_lt_of_lt hd' hd

/-! ## The commands (R183, R184) -/

/-- GCD completes on every operand. -/
theorem gcdBody_eq (s : State) (p : Port) : gcdBody s p = .ok { r := some (Nat.gcd s.N s.A) } p := by
  rw [gcdBody, egcd_fst]

/-- MODINV refuses a modulus below 2. -/
theorem modinvBody_bad_modulus {s : State} (p : Port) (h : s.N < 2) : modinvBody s p = .raise .invalidInput p := if_pos h

/-- MODINV refuses an operand that shares a factor with the modulus. -/
theorem modinvBody_not_coprime {s : State} (p : Port) (h : 2 ≤ s.N) (hg : Nat.gcd s.N s.A ≠ 1) :
    modinvBody s p = .raise .notInvertible p := by
  rw [modinvBody, if_neg (Nat.not_lt.2 h), egcd_fst, if_pos hg]

/-- Inside its domain MODINV leaves the inverse in R. -/
theorem modinvBody_in_domain {s : State} (p : Port) (h : 2 ≤ s.N) (hg : Nat.gcd s.N s.A = 1) :
    modinvBody s p = .ok { r := some (modInverse s.N s.A) } p := by
  rw [modinvBody, if_neg (Nat.not_lt.2 h), egcd_fst, if_neg (not_not.2 hg)]
  rfl

/-- Settles O9: the first component of extended Euclid is the gcd, and the body has no other outcome. -/
theorem gcdLeavesTheGreatestCommonDivisor : Obligations.GcdLeavesTheGreatestCommonDivisor := by
  unfold Obligations.GcdLeavesTheGreatestCommonDivisor
  exact ⟨by decide, fun s => exec_of_ok (i := .gcd) (gcdBody_eq s _)⟩

/-- Settles O10: the two checks in their order, then the reduced Bézout coefficient, which is the only reduced inverse. -/
theorem modinvLeavesTheUniqueInverse : Obligations.ModinvLeavesTheUniqueInverse := by
  unfold Obligations.ModinvLeavesTheUniqueInverse
  refine ⟨by decide, fun s => ⟨fun small => ?_, fun h hg => ?_, fun h hg => ?_⟩⟩
  · exact exec_of_raise (i := .modinv) (modinvBody_bad_modulus _ small)
  · exact exec_of_raise (i := .modinv) (modinvBody_not_coprime _ h hg)
  · have reduced := modInverse_lt s.A h
    have inverse := modInverse_mul h hg
    refine ⟨modInverse s.N s.A, reduced, inverse, fun d' hd' h' => ?_, ?_⟩
    · exact reduced_inverse_unique hg reduced hd' inverse h'
    · exact exec_of_ok (i := .modinv) (modinvBody_in_domain _ h hg)

end Sys2Proof.Machine

/-! # The statements on modular exponentiation

R191 (MODMUL), R194 (MODEXP), R196 (the RSA identity). -/

namespace Sys2Proof.Machine

/-! ## The power (R193) -/

/-- Square-and-multiply from `1 % n` over all the bits of the exponent leaves the power, reduced; `n = 1` gives 0. -/
theorem modexp_eq (a e n : Nat) : modexp a e n = a ^ e % n := by
  have top : e % 2 ^ bitlen e = e := Nat.mod_eq_of_lt ((bitlen_le_iff e _).1 le_rfl)
  rw [modexp, modexpLoop_eq a e n _ _ (Nat.mod_mod _ _), top, Nat.mul_mod, ← Nat.pow_mod, one_pow, ← Nat.mul_mod, one_mul]

/-! ## The commands (R191, R194) -/

/-- MODMUL refuses the modulus 0. -/
theorem modmulBody_zero_modulus {s : State} (p : Port) (h : s.N = 0) : modmulBody s p = .raise .invalidInput p := if_pos h

/-- Any other modulus gives the exact product, reduced. -/
theorem modmulBody_in_domain {s : State} (p : Port) (h : s.N ≠ 0) :
    modmulBody s p = .ok { r := some (s.A * s.B % s.N) } p := if_neg h

/-- MODEXP refuses the modulus 0. -/
theorem modexpBody_zero_modulus {s : State} (p : Port) (h : s.N = 0) : modexpBody s p = .raise .invalidInput p := if_pos h

/-- MODEXP refuses a base that the modulus does not exceed. -/
theorem modexpBody_base_too_large {s : State} (p : Port) (h : s.N ≠ 0) (hA : s.A ≥ s.N) :
    modexpBody s p = .raise .encodingOverflow p := (if_neg h).trans (if_pos hA)

/-- Inside its domain MODEXP leaves the power in R. -/
theorem modexpBody_in_domain {s : State} (p : Port) (h : s.N ≠ 0) (hA : s.A < s.N) :
    modexpBody s p = .ok { r := some (s.A ^ s.B % s.N) } p := by
  rw [modexpBody, if_neg h, if_neg (Nat.not_le.2 hA), modexp_eq]

/-- Inside its domain MODEXP completes with the power. -/
theorem exec_modexp_in_domain {s : State} (hA : s.A < s.N) :
    exec .modexp s = .next (s.complete { r := some (s.A ^ s.B % s.N) }) :=
  exec_of_ok (i := .modexp) (modexpBody_in_domain _ (Nat.ne_zero_of_lt hA) hA)

/-- Settles O7: the zero modulus is the one failure, and the product is reduced only once it is exact. -/
theorem modmulLeavesTheReducedProduct : Obligations.ModmulLeavesTheReducedProduct := by
  unfold Obligations.ModmulLeavesTheReducedProduct
  refine ⟨by decide, fun s => ⟨fun zero => ?_, fun h => ?_⟩⟩
  · exact exec_of_raise (i := .modmul) (modmulBody_zero_modulus _ zero)
  · exact exec_of_ok (i := .modmul) (modmulBody_in_domain _ h)

/-- Settles O8: the two checks in their order, then the power by square-and-multiply. -/
theorem modexpLeavesThePower : Obligations.ModexpLeavesThePower := by
  unfold Obligations.ModexpLeavesThePower
  refine ⟨by decide, fun s => ⟨fun zero => ?_, fun h hA => ?_, fun _ hA => ?_⟩⟩
  · exact exec_of_raise (i := .modexp) (modexpBody_zero_modulus _ zero)
  · exact exec_of_raise (i := .modexp) (modexpBody_base_too_large _ h hA)
  · exact exec_modexp_in_domain hA

/-! ## The RSA identity (R196) -/

/-- Fermat's little theorem for every natural base, the multiples of the prime included. -/
theorem pow_add_one_modEq_self_of_prime {p k : Nat} (hp : Nat.Prime p) (hk : p - 1 ∣ k) (m : Nat) :
    m ^ (k + 1) ≡ m [MOD p] := by
  have fermat := Int.ModEq.pow_eq_pow hp (x := k + 1) (y := 1) hk (by omega) one_pos m
  rw [← Int.natCast_modEq_iff]
  simpa using fermat

/-- The identity modulo both primes is the identity modulo their product, by the Chinese remainder theorem. -/
theorem pow_modEq_self_of_prime_mul_prime {p q k : Nat} (hp : Nat.Prime p) (hq : Nat.Prime q) (hpq : p ≠ q)
    (hk : k % ((p - 1) * (q - 1)) = 1) (m : Nat) : m ^ k ≡ m [MOD p * q] := by
  have split := Nat.div_add_mod k ((p - 1) * (q - 1))
  rw [hk] at split
  rw [← split, ← Nat.modEq_and_modEq_iff_modEq_mul ((Nat.coprime_primes hp hq).2 hpq)]
  exact ⟨pow_add_one_modEq_self_of_prime hp (dvd_mul_of_dvd_left (dvd_mul_right _ _) _) m,
    pow_add_one_modEq_self_of_prime hq (dvd_mul_of_dvd_left (dvd_mul_left _ _) _) m⟩

/-- Decrypting what was encrypted: the reduction between the two powers makes no difference. -/
theorem pow_mod_pow_mod_of_prime_mul_prime {p q e d m : Nat} (hp : Nat.Prime p) (hq : Nat.Prime q) (hpq : p ≠ q)
    (hde : d * e % ((p - 1) * (q - 1)) = 1) (hm : m < p * q) : (m ^ e % (p * q)) ^ d % (p * q) = m := calc
  (m ^ e % (p * q)) ^ d % (p * q) = m ^ (d * e) % (p * q) := by rw [← Nat.pow_mod, ← pow_mul, mul_comm e]
  _ = m % (p * q) := pow_modEq_self_of_prime_mul_prime hp hq hpq hde m
  _ = m := Nat.mod_eq_of_lt hm

/-- Settles O60: both runs stay inside the domain of MODEXP, so R holds the two powers of the RSA identity. -/
theorem modexpUndoesModexp : Obligations.ModexpUndoesModexp := by
  unfold Obligations.ModexpUndoesModexp
  intro s p q e d m hp hq hpq hde hN hA hm hB
  have encrypted : s.A ^ s.B % s.N < s.N := Nat.mod_lt _ (Nat.zero_lt_of_lt hm)
  refine ⟨_, exec_modexp_in_domain (hA ▸ hm), rfl, _, exec_modexp_in_domain encrypted, rfl, ?_⟩
  subst hA hB
  rw [hN] at hm
  simpa [hN] using pow_mod_pow_mod_of_prime_mul_prime hp hq hpq hde hm

end Sys2Proof.Machine

/-! # The statements on the system commands

R212 (NOP), R210 (the acceptance of a CMD write). -/

namespace Sys2Proof.Machine

/-! ## NOP (R212) -/

/-- In DONE the enable IE_DONE raises the interrupt level (R229). -/
theorem State.irq_of_done {s : State} (hp : s.phase = .done) (he : s.ieDone = true) : s.irq = true := by
  simp [State.irq, State.statusDone, hp, he]

/-- NOP completes, and assigns no register. -/
theorem exec_nop (s : State) : exec .nop s = .next (s.complete {}) := exec_of_ok (i := .nop) rfl

/-- Settles O6: NOP completes with the empty result, and completion leaves DONE, which raises `irq` under IE_DONE. -/
theorem nopCompletesAndTouchesNothing : Obligations.NopCompletesAndTouchesNothing := by
  unfold Obligations.NopCompletesAndTouchesNothing
  exact ⟨by decide, fun s => ⟨s.complete {}, exec_nop s, State.irq_of_done (State.complete_phase s {}), rfl⟩⟩

/-! ## The CMD write (R210) -/

/-- Settles O42: the slot at offset 0 is CMD, whose write the phase accepts or makes an overrun. -/
theorem cmdWritesAreAcceptedInIdleAndDone : Obligations.CmdWritesAreAcceptedInIdleAndDone := by
  unfold Obligations.CmdWritesAreAcceptedInIdleAndDone
  intro s w
  have atCmd : hostWrite 0x000 w s = .next (s.writeSlot 0x000 .cmd w) := hostWrite_onWindow w (by decide)
  exact ⟨fun accepting => atCmd.trans (congrArg _ (State.writeSlot_cmd_accepted 0x000 w accepting)),
    fun ignoring => atCmd.trans (congrArg _ (State.writeSlot_cmd_ignored 0x000 w ignoring))⟩

end Sys2Proof.Machine

/-! # The statements on exceptions

R225 (an illegal word), R234 (trap entry), R237 to R239 (the STATUS write) and R229 (the interrupt level). -/

namespace Sys2Proof.Machine

/-! ## The interrupt output as a level (R229) -/

/-- The interrupt output is high exactly for DONE under IE_DONE and for ERR under IE_ERR (R229). -/
theorem State.irq_iff (s : State) :
    s.irq = true ↔ (s.phase = .done ∧ s.ieDone = true) ∨ (s.phase = .err ∧ s.ieErr = true) := by
  simp [State.irq, State.statusDone, State.statusErr]

/-- In IDLE and BUSY the interrupt output is low, whatever the enables. -/
theorem State.irq_eq_false {s : State} (h : s.phase = .idle ∨ s.phase = .busy) : s.irq = false := by
  rcases h with h | h <;> simp [State.irq, State.statusDone, State.statusErr, h]

/-- The interrupt output depends on the phase and the two enables alone. -/
theorem State.irq_congr {s t : State} (hp : t.phase = s.phase) (hd : t.ieDone = s.ieDone) (he : t.ieErr = s.ieErr) :
    t.irq = s.irq := by
  simp only [State.irq, State.statusDone, State.statusErr, hp, hd, he]

/-! ## An illegal word (R225) -/

/-- The sequencer meets an illegal word in CMD with trap entry, before any body runs. -/
theorem sequencerStep_of_illegal {s : State} (hb : s.phase = .busy) (hl : legal s.cmd = false) :
    sequencerStep s = .next (s.trapEntry .illegalCommand) := by
  cases hd : decode s.cmd with
  | ok i => simp [legal, hd, Except.toBool] at hl
  | error reason => simp [sequencerStep, hb, hd]

/-- Settles O40: the sequencer's move is trap entry with IllegalCommand, whose code is 5. -/
theorem illegalWordsFailWithIllegalCommand : Obligations.IllegalWordsFailWithIllegalCommand := by
  unfold Obligations.IllegalWordsFailWithIllegalCommand
  exact fun s hb hl => sequencerStep_of_illegal hb hl

/-! ## Trap entry (R234) -/

/-- Settles O41: trap entry is the update that R234 names, and it leaves ERR, which raises `irq` under IE_ERR. -/
theorem trapEntryChangesStatusOnly : Obligations.TrapEntryChangesStatusOnly := by
  unfold Obligations.TrapEntryChangesStatusOnly
  exact ⟨fun s k => rfl, fun s k enabled => (s.trapEntry k).irq_iff.2 (.inr ⟨s.trapEntry_phase k, enabled⟩),
    rfl, rfl, rfl, rfl, rfl, rfl, rfl⟩

/-! ## The STATUS write (R237 to R239) -/

/-- A STATUS write clears ERRCODE by bit 2 in ERR alone (R237). -/
@[simp] theorem State.clearStatus_errcode (s : State) (v : Word) :
    (s.clearStatus v).errcode = if v.getLsbD 2 = true ∧ s.phase = .err then 0 else s.errcode := by
  rw [State.clearStatus, State.clearOvr_errcode, State.dismiss_errcode, State.acknowledge_errcode]

/-- A STATUS write changes the phase, ERRCODE and OVR and nothing else: each of its three rules keeps the rest. -/
theorem State.clearStatus_frame (s : State) (v : Word) :
    s.clearStatus v = { s with phase := (s.clearStatus v).phase, errcode := (s.clearStatus v).errcode,
                               ovr := (s.clearStatus v).ovr } := by
  unfold State.clearStatus State.clearOvr State.dismiss State.acknowledge
  split <;> split <;> split <;> rfl

/-- Settles O43: the slot at offset 4 is STATUS, whose write is an overrun in BUSY and the three rules in any other phase. -/
theorem statusWritesClearByWritingOne : Obligations.StatusWritesClearByWritingOne := by
  unfold Obligations.StatusWritesClearByWritingOne
  intro s v
  have atStatus : hostWrite 0x004 v s = .next (s.writeSlot 0x004 .status v) := hostWrite_onWindow v (by decide)
  refine ⟨fun hb => atStatus.trans (congrArg _ (if_pos hb)), fun hb => ⟨s.clearStatus v, ?_, ?_, ?_, ?_, ?_⟩⟩
  · rw [atStatus, State.writeSlot_status _ v hb]
  · exact s.clearStatus_phase v
  · exact s.clearStatus_errcode v
  · rw [State.clearStatus_ovr]
    cases v.getLsbD 3 <;> simp
  · exact s.clearStatus_frame v

/-! ## The moves that change the interrupt output (R229) -/

/-- The two enables are as they were. -/
def State.sameEnables (s t : State) : Prop := t.ieDone = s.ieDone ∧ t.ieErr = s.ieErr

/-- Only a write of CTRL writes the enables (R36). -/
theorem State.writeSlot_enables (s : State) (off : Nat) {slot : Slot} (v : Word) (h : slot ≠ .ctrl) :
    s.sameEnables (s.writeSlot off slot v) := by
  rcases writeSlot_cases s off slot v with e | ⟨-, e⟩ | ⟨hs, -⟩ | ⟨-, -, e⟩ | ⟨-, -, e⟩ | ⟨x, i, -, -, -, e⟩
  case inr.inr.inl => exact absurd hs h
  all_goals rw [e]; simp [State.sameEnables, State.clearStatus, State.writeLimb]

/-- The sequencer's move does not write the enables. -/
theorem sequencerStep_enables {s t : State} (h : sequencerStep s = .next t) : s.sameEnables t := by
  rcases sequencerStep_cases h with ⟨-, rfl⟩ | ⟨-, -, rfl⟩ | ⟨i, -, -, hx⟩
  · exact ⟨rfl, rfl⟩
  · exact ⟨rfl, rfl⟩
  · rcases exec_cases hx with ⟨res, p, -, rfl⟩ | ⟨k, p, -, rfl⟩ | ⟨p, -, rfl⟩ <;> exact ⟨rfl, rfl⟩

/-- The moves that can change the enables: a CTRL write and reset (R36). -/
theorem perform_enables {e : Event} {s t : State} (h : perform e s = .next t) :
    s.sameEnables t ∨ (∃ v, e = .hostWrite 0x008 v) ∨ ∃ k, e = .rst k := by
  rcases perform_cases h with ⟨off, -, -, -, rfl⟩ | ⟨off, v, rfl, -, -, rfl⟩ | ⟨-, hs⟩ | ⟨v, -, rfl⟩ | ⟨-, rfl⟩ | ⟨k, he, -⟩
  · exact .inl ⟨rfl, rfl⟩
  · by_cases hs : slotAt s.nlimb off = .ctrl
    · obtain rfl := slotAt_control.2.2 hs
      exact .inr (.inl ⟨v, rfl⟩)
    · exact .inl (s.writeSlot_enables off v hs)
  · exact .inl (sequencerStep_enables hs)
  · exact .inl ⟨rfl, rfl⟩
  · exact .inl ⟨rfl, rfl⟩
  · exact .inr (.inr ⟨k, he⟩)

/-- The moves that change the interrupt output, which are those of the phase and of the enables, each with the phase it
leaves. -/
theorem perform_changes_irq {e : Event} {s t : State} (h : perform e s = .next t) (hne : t.irq ≠ s.irq) :
    (e = .sequencer ∧ s.phase = .busy) ∨
    (∃ v, e = .hostWrite 0x008 v ∧ t.phase = s.phase) ∨
    (∃ v, e = .hostWrite 0x004 v ∧ t.phase = .idle ∧
      ((v.getLsbD 1 = true ∧ s.phase = .done) ∨ (v.getLsbD 2 = true ∧ s.phase = .err))) ∨
    (∃ w, e = .hostWrite 0x000 w ∧ (s.phase = .idle ∨ s.phase = .done) ∧ t.phase = .busy) ∨
    ((∃ k, e = .rst k) ∧ t.phase = .idle) := by
  obtain ⟨onReset, onAccept, -, -, onDismiss, onAcknowledge, -⟩ := phaseTransitionsAreTheListedOnes e s t h
  by_cases hp : t.phase = s.phase
  · rcases perform_enables h with ⟨hd, he⟩ | ⟨v, rfl⟩ | ⟨k, rfl⟩
    · exact absurd (State.irq_congr hp hd he) hne
    · exact .inr (.inl ⟨v, rfl, hp⟩)
    · exact .inr (.inr (.inr (.inr ⟨⟨k, rfl⟩, onReset k rfl⟩)))
  · rcases perform_changes_phase h hp with ⟨k, he⟩ | ⟨w, he, hs⟩ | hs | ⟨v, he, hv, hs⟩ | ⟨v, he, hv, hs⟩
    · exact .inr (.inr (.inr (.inr ⟨⟨k, he⟩, onReset k he⟩)))
    · exact .inr (.inr (.inr (.inl ⟨w, he, hs, onAccept w he hs⟩)))
    · exact .inl hs
    · exact .inr (.inr (.inl ⟨v, he, onDismiss v he hv hs, .inl ⟨hv, hs⟩⟩))
    · exact .inr (.inr (.inl ⟨v, he, onAcknowledge v he hv hs, .inr ⟨hv, hs⟩⟩))

/-- Settles O55: of the moves that change `irq`, a rise excludes those that end in IDLE or BUSY, a fall those that
start there. -/
theorem interruptRisesOnlyOnCompletionOrEnable : Obligations.InterruptRisesOnlyOnCompletionOrEnable := by
  unfold Obligations.InterruptRisesOnlyOnCompletionOrEnable
  refine ⟨State.irq_iff, fun e s t h => ⟨fun low high => ?_, fun high low => ?_⟩⟩
  · have notLow : ¬(t.phase = .idle ∨ t.phase = .busy) := fun hp => by simp [State.irq_eq_false hp] at high
    rcases perform_changes_irq h (by simp [low, high]) with hs | hc | ⟨v, -, hp, -⟩ | ⟨w, -, -, hp⟩ | ⟨-, hp⟩
    · exact .inl hs
    · exact .inr hc
    · exact absurd (.inl hp) notLow
    · exact absurd (.inr hp) notLow
    · exact absurd (.inl hp) notLow
  · have notLow : ¬(s.phase = .idle ∨ s.phase = .busy) := fun hp => by simp [State.irq_eq_false hp] at high
    rcases perform_changes_irq h (by simp [low, high]) with ⟨-, hp⟩ | hc | hv | ⟨w, he, hp | hp, ht⟩ | ⟨hr, -⟩
    · exact absurd (.inr hp) notLow
    · exact .inr (.inr (.inl hc))
    · exact .inl hv
    · exact absurd (.inl hp) notLow
    · exact .inr (.inl ⟨w, he, hp, ht⟩)
    · exact .inr (.inr (.inr hr))

end Sys2Proof.Machine

/-! # The statements on the encoding

R107 to R110 and R113: the decoder, the encoder and the match/mask table. -/

namespace Sys2Proof

/-! ## The fields of a word (R100) -/

/-! Each field is below the power of two of its width. -/

theorem opOf_le (w : Word) : opOf w ≤ 0x1F := Nat.le_of_lt_succ (w.extractLsb' 0 5).isLt
theorem roundsOfWord_le (w : Word) : roundsOfWord w ≤ 4095 := Nat.le_of_lt_succ (w.extractLsb' 6 12).isLt
theorem lenOf_le (w : Word) : lenOf w ≤ 8191 := Nat.le_of_lt_succ (w.extractLsb' 18 13).isLt

/-- A word is its five fields. -/
theorem word_ext_fields {w v : Word} (h31 : w.getLsbD 31 = v.getLsbD 31) (hop : opOf w = opOf v)
    (hauto : autoOf w = autoOf v) (hrounds : roundsOfWord w = roundsOfWord v) (hlen : lenOf w = lenOf v) : w = v := by
  have w31 := bit_toNat w 31
  have v31 := bit_toNat v 31
  have w5 := bit_toNat w 5
  have v5 := bit_toNat v 5
  rw [h31] at w31
  rw [show w.getLsbD 5 = v.getLsbD 5 from hauto] at w5
  simp only [opOf, roundsOfWord, lenOf, bits, BitVec.extractLsb'_toNat, Nat.shiftRight_eq_div_pow] at hop hrounds hlen
  have := w.isLt
  have := v.isLt
  exact BitVec.eq_of_toNat_eq (by omega)

/-- Two words that carry the same fields are one word. -/
theorem carries_unique {w v : Word} {op : Nat} {auto : Bool} {rounds len : Nat} (hw : carries w op auto rounds len)
    (hv : carries v op auto rounds len) : w = v := by
  obtain ⟨w31, wop, wauto, wrounds, wlen⟩ := hw
  obtain ⟨v31, vop, vauto, vrounds, vlen⟩ := hv
  exact word_ext_fields (w31.trans v31.symm) (wop.trans vop.symm) (wauto.trans vauto.symm) (wrounds.trans vrounds.symm)
    (wlen.trans vlen.symm)

/-- The word carries the fields of the command's row and immediates (R107, R113). -/
def carriesCommand (w : Word) : Instr → Prop
  | .nop => carries w 0x00 false 0 0
  | .modmul => carries w 0x01 false 0 0
  | .modexp => carries w 0x02 false 0 0
  | .modinv => carries w 0x03 false 0 0
  | .gcd => carries w 0x04 false 0 0
  | .decomp => carries w 0x05 false 0 0
  | .prefilt => carries w 0x06 false 0 0
  | .mrround => carries w 0x07 false 0 0
  | .isprimeRounds rounds => carries w 0x08 false rounds 0
  | .isprimeAuto => carries w 0x08 true 0 0
  | .randodd len => carries w 0x09 false 0 len
  | .genprimeRounds len rounds => carries w 0x0A false rounds len
  | .genprimeAuto len => carries w 0x0A true 0 len

/-- Two words that carry the fields of one command are one word. -/
theorem carriesCommand_unique {w v : Word} {i : Instr} (hw : carriesCommand w i) (hv : carriesCommand v i) : w = v := by
  cases i <;> exact carries_unique hw hv

/-- The word of a well-formed command carries its fields. -/
theorem encode_carries {i : Instr} (h : i.wellFormed = true) : carriesCommand (encode i) i := by
  cases i with
  | nop => exact Laws.Fields.nop h
  | modmul => exact Laws.Fields.modmul h
  | modexp => exact Laws.Fields.modexp h
  | modinv => exact Laws.Fields.modinv h
  | gcd => exact Laws.Fields.gcd h
  | decomp => exact Laws.Fields.decomp h
  | prefilt => exact Laws.Fields.prefilt h
  | mrround => exact Laws.Fields.mrround h
  | isprimeRounds rounds => exact Laws.Fields.isprimeRounds rounds h
  | isprimeAuto => exact Laws.Fields.isprimeAuto h
  | randodd len => exact Laws.Fields.randodd len h
  | genprimeRounds len rounds => exact Laws.Fields.genprimeRounds len rounds h
  | genprimeAuto len => exact Laws.Fields.genprimeAuto len h

/-- The immediates of a command that some word carries fit their fields. -/
theorem wellFormed_of_carries {w : Word} {i : Instr} (h : carriesCommand w i) : i.wellFormed = true := by
  cases i
  case isprimeRounds | randodd | genprimeRounds | genprimeAuto =>
    obtain ⟨-, -, -, hrounds, hlen⟩ := h
    simp [Instr.wellFormed, roundsFits, lenFits, ← hrounds, ← hlen, roundsOfWord_le, lenOf_le]
  all_goals rfl

/-! ## The four formats (R101)

Which words of a format decode, and to which command. -/

/-- Format Z leaves AUTO, ROUNDS and LEN at 0. -/
theorem decodeZ_eq_ok {w : Word} {i j : Instr} :
    decodeZ w j = .ok i ↔ j = i ∧ autoOf w = false ∧ roundsOfWord w = 0 ∧ lenOf w = 0 := by
  unfold decodeZ
  split_ifs <;> simp_all

/-- Format K leaves LEN at 0, and ROUNDS too where AUTO is 1. -/
theorem decodeK_eq_ok {w : Word} {i : Instr} :
    decodeK w = .ok i ↔ lenOf w = 0 ∧
      ((.isprimeAuto = i ∧ autoOf w = true ∧ roundsOfWord w = 0) ∨
       (.isprimeRounds (roundsOfWord w) = i ∧ autoOf w = false)) := by
  unfold decodeK
  split_ifs <;> simp_all

/-- Format L leaves AUTO and ROUNDS at 0. -/
theorem decodeL_eq_ok {w : Word} {i : Instr} :
    decodeL w = .ok i ↔ .randodd (lenOf w) = i ∧ autoOf w = false ∧ roundsOfWord w = 0 := by
  unfold decodeL
  split_ifs <;> simp_all

/-- Format G leaves ROUNDS at 0 where AUTO is 1. -/
theorem decodeG_eq_ok {w : Word} {i : Instr} :
    decodeG w = .ok i ↔
      (.genprimeAuto (lenOf w) = i ∧ autoOf w = true ∧ roundsOfWord w = 0) ∨
      (.genprimeRounds (lenOf w) (roundsOfWord w) = i ∧ autoOf w = false) := by
  unfold decodeG
  split_ifs <;> simp_all

/-! ## What the decoder answers (R110) -/

/-- A word that carries the fields of a command decodes to it. -/
theorem decode_of_carries {w : Word} {i : Instr} (h : carriesCommand w i) : decode w = .ok i := by
  cases i
  all_goals
    obtain ⟨h31, hop, hauto, hrounds, hlen⟩ := h
    rw [decode, h31, hop]
    simp [decodeZ_eq_ok, decodeK_eq_ok, decodeL_eq_ok, decodeG_eq_ok, hauto, hrounds, hlen]

/-- A word that decodes carries the fields of its command. -/
theorem carries_of_decode {w : Word} {i : Instr} (h : decode w = .ok i) : carriesCommand w i := by
  unfold decode at h
  split at h
  · cases h
  next h31 =>
  rw [Bool.not_eq_true] at h31
  split at h
  case h_9 hop =>
    obtain ⟨hlen, ⟨rfl, hauto, hrounds⟩ | ⟨rfl, hauto⟩⟩ := decodeK_eq_ok.1 h
    · exact ⟨h31, hop, hauto, hrounds, hlen⟩
    · exact ⟨h31, hop, hauto, rfl, hlen⟩
  case h_10 hop =>
    obtain ⟨rfl, hauto, hrounds⟩ := decodeL_eq_ok.1 h
    exact ⟨h31, hop, hauto, hrounds, rfl⟩
  case h_11 hop =>
    obtain ⟨rfl, hauto, hrounds⟩ | ⟨rfl, hauto⟩ := decodeG_eq_ok.1 h
    · exact ⟨h31, hop, hauto, hrounds, rfl⟩
    · exact ⟨h31, hop, hauto, rfl, rfl⟩
  case h_12 => cases h
  all_goals
    next hop =>
    obtain ⟨rfl, hauto, hrounds, hlen⟩ := decodeZ_eq_ok.1 h
    exact ⟨h31, hop, hauto, hrounds, hlen⟩

/-- A word is legal exactly when it carries the fields of some command (R109). -/
theorem legal_iff_carries (w : Word) : legal w = true ↔ ∃ i, carriesCommand w i := by
  constructor
  · intro h
    cases hd : decode w with
    | ok i => exact ⟨i, carries_of_decode hd⟩
    | error e => simp [legal, hd, Except.toBool] at h
  · rintro ⟨i, h⟩
    simp [legal, decode_of_carries h, Except.toBool]

/-- Settles O1: the word of a well-formed command carries its fields, and the decoder reads the fields. -/
theorem decodeOfEncodeIsTheCommand : Obligations.DecodeOfEncodeIsTheCommand := by
  unfold Obligations.DecodeOfEncodeIsTheCommand
  exact fun i h => decode_of_carries (encode_carries h)

/-- Settles O2: the word and the word of its command carry the same fields, and no bit is outside them. -/
theorem encodeOfDecodeIsTheWord : Obligations.EncodeOfDecodeIsTheWord := by
  unfold Obligations.EncodeOfDecodeIsTheWord
  intro w i h
  have hw := carries_of_decode h
  have wf := wellFormed_of_carries hw
  exact ⟨wf, carriesCommand_unique (encode_carries wf) hw⟩

/-! ## The match/mask table (R107) -/

/-- A word cannot select two rows that fix a common bit differently. -/
theorem Row.disjoint_of_conflict {p q : Row} (h : p.pattern &&& q.mask ≠ q.pattern &&& p.mask) (w : Word) :
    ¬(p.selects w = true ∧ q.selects w = true) := by
  rintro ⟨hp, hq⟩
  rw [Row.selects, beq_iff_eq] at hp hq
  rw [← hp, ← hq, BitVec.and_assoc, BitVec.and_assoc, BitVec.and_comm p.mask] at h
  exact h rfl

/-- The rows of the table fix some common bit differently, two by two. -/
theorem opcodeTable_disjoint :
    opcodeTable.Pairwise fun p q => ∀ w : Word, ¬(p.selects w = true ∧ q.selects w = true) := by
  have conflict : opcodeTable.Pairwise fun p q => p.pattern &&& q.mask ≠ q.pattern &&& p.mask := by decide
  exact conflict.imp Row.disjoint_of_conflict

/-- A field that the mask covers is kept, and one that it leaves out reads 0. -/
theorem bits_masked {w m : Word} {lo len : Nat} {free : Bool} (h : bits m lo len = bif free then 0 else 2 ^ len - 1) :
    bits (w &&& m) lo len = bif free then 0 else bits w lo len := by
  have split : bits (w &&& m) lo len = bits w lo len &&& bits m lo len := by simp [bits, BitVec.extractLsb'_and]
  rw [split, h]
  cases free
  · exact Nat.and_two_pow_sub_one_of_lt_two_pow (BitVec.isLt _)
  · exact Nat.and_zero _

/-- A bit that the mask covers is kept. -/
theorem getLsbD_masked {w m : Word} {k : Nat} (h : m.getLsbD k = true) : (w &&& m).getLsbD k = w.getLsbD k := by
  rw [BitVec.getLsbD_and, h, Bool.and_true]

/-- A row fixes bit 31 at 0, OP and AUTO at its own values, and ROUNDS and LEN at 0 unless its format uses them (R107). -/
def Row.fixes (row : Row) (op : Nat) (auto usesRounds usesLen : Bool) : Prop :=
  carries row.pattern op auto 0 0 ∧ row.mask.getLsbD 31 = true ∧ row.mask.getLsbD 5 = true ∧ bits row.mask 0 5 = 2 ^ 5 - 1 ∧
    bits row.mask 6 12 = (bif usesRounds then 0 else 2 ^ 12 - 1) ∧ bits row.mask 18 13 = bif usesLen then 0 else 2 ^ 13 - 1

/-- The words that select a row are those with its OP and AUTO and any value in the fields that its format uses. -/
theorem Row.selects_iff {row : Row} {op : Nat} {auto usesRounds usesLen : Bool} (h : row.fixes op auto usesRounds usesLen)
    (w : Word) : row.selects w = true ↔
      carries w op auto (bif usesRounds then roundsOfWord w else 0) (bif usesLen then lenOf w else 0) := by
  obtain ⟨pattern, m31, mauto, mop, mrounds, mlen⟩ := h
  have masked : row.selects w = true ↔ carries (w &&& row.mask) op auto 0 0 := by
    rw [Row.selects, beq_iff_eq]
    exact ⟨fun e => e ▸ pattern, fun c => carries_unique c pattern⟩
  rw [masked]
  unfold carries opOf autoOf roundsOfWord lenOf
  rw [getLsbD_masked m31, getLsbD_masked mauto, bits_masked (free := false) mop, bits_masked mrounds, bits_masked mlen]
  cases usesRounds <;> cases usesLen <;> simp

/-- The command of the same row with the immediates of the word. -/
def withImmediatesOf (w : Word) : Instr → Instr
  | .isprimeRounds _ => .isprimeRounds (roundsOfWord w)
  | .randodd _ => .randodd (lenOf w)
  | .genprimeRounds _ _ => .genprimeRounds (lenOf w) (roundsOfWord w)
  | .genprimeAuto _ => .genprimeAuto (lenOf w)
  | i => i

/-- The words that select a command's row are those that carry the fields of the row's command with their own immediates. -/
theorem rowOf_selects_iff (i : Instr) (w : Word) :
    (rowOf i).selects w = true ↔ carriesCommand w (withImmediatesOf w i) := by
  cases i <;> simp only [rowOf]
  case isprimeRounds =>
    refine Row.selects_iff (usesRounds := true) (usesLen := false) ?_ w
    exact ⟨⟨rfl, rfl, rfl, rfl, rfl⟩, rfl, rfl, rfl, rfl, rfl⟩
  case randodd | genprimeAuto =>
    refine Row.selects_iff (usesRounds := false) (usesLen := true) ?_ w
    exact ⟨⟨rfl, rfl, rfl, rfl, rfl⟩, rfl, rfl, rfl, rfl, rfl⟩
  case genprimeRounds =>
    refine Row.selects_iff (usesRounds := true) (usesLen := true) ?_ w
    exact ⟨⟨rfl, rfl, rfl, rfl, rfl⟩, rfl, rfl, rfl, rfl, rfl⟩
  all_goals
    refine Row.selects_iff (usesRounds := false) (usesLen := false) ?_ w
    exact ⟨⟨rfl, rfl, rfl, rfl, rfl⟩, rfl, rfl, rfl, rfl, rfl⟩

/-- A word that carries a command's fields has the command's immediates. -/
theorem withImmediatesOf_of_carries {w : Word} {i : Instr} (h : carriesCommand w i) : withImmediatesOf w i = i := by
  cases i
  case isprimeRounds | randodd | genprimeRounds | genprimeAuto =>
    obtain ⟨-, -, -, hrounds, hlen⟩ := h
    simp [withImmediatesOf, hrounds, hlen]
  all_goals rfl

/-- The table has the row of every command, whatever its immediates. -/
theorem rowOf_mem_opcodeTable (i : Instr) : rowOf i ∈ opcodeTable := by
  cases i <;> simp [opcodeTable, rowOf]

/-- Every row of the table is the row of some command. -/
theorem exists_rowOf_of_mem {row : Row} (h : row ∈ opcodeTable) : ∃ i, rowOf i = row := by
  simp only [opcodeTable, List.mem_cons, List.not_mem_nil, or_false] at h
  rcases h with h | h | h | h | h | h | h | h | h | h | h | h | h <;> exact ⟨_, h.symm⟩

/-- Settles O3: the rows conflict two by two, and a word selects a row exactly when it carries the fields of a command of it,
which is what the decoder reads. -/
theorem decodeAgreesWithTheOpcodeTable : Obligations.DecodeAgreesWithTheOpcodeTable := by
  unfold Obligations.DecodeAgreesWithTheOpcodeTable
  have selects {w : Word} {i : Instr} (h : carriesCommand w i) : (rowOf i).selects w = true :=
    (rowOf_selects_iff i w).2 ((withImmediatesOf_of_carries h).symm ▸ h)
  refine ⟨⟨rfl, opcodeTable_disjoint⟩, fun w => ⟨fun i h => ⟨rowOf_mem_opcodeTable i, selects (carries_of_decode h)⟩, ?_⟩⟩
  rw [legal_iff_carries]
  constructor
  · rintro ⟨i, h⟩
    exact ⟨rowOf i, rowOf_mem_opcodeTable i, selects h⟩
  · rintro ⟨row, hrow, h⟩
    obtain ⟨i, rfl⟩ := exists_rowOf_of_mem hrow
    exact ⟨_, (rowOf_selects_iff i w).1 h⟩

/-! ## The six conditions (R108) -/

/-- The legal words, field by field. -/
theorem legal_iff_fields (w : Word) : legal w = true ↔ w.getLsbD 31 = false ∧
    ((opOf w ≤ 0x07 ∧ autoOf w = false ∧ roundsOfWord w = 0 ∧ lenOf w = 0) ∨
     (opOf w = 0x08 ∧ lenOf w = 0 ∧ (autoOf w = true → roundsOfWord w = 0)) ∨
     (opOf w = 0x09 ∧ autoOf w = false ∧ roundsOfWord w = 0) ∨
     (opOf w = 0x0A ∧ (autoOf w = true → roundsOfWord w = 0))) := by
  rw [legal_iff_carries]
  constructor
  · rintro ⟨i, h⟩
    cases i <;> obtain ⟨h31, hop, hauto, hrounds, hlen⟩ := h
    case isprimeRounds => exact ⟨h31, .inr (.inl ⟨hop, hlen, by simp [hauto]⟩)⟩
    case isprimeAuto => exact ⟨h31, .inr (.inl ⟨hop, hlen, fun _ => hrounds⟩)⟩
    case randodd => exact ⟨h31, .inr (.inr (.inl ⟨hop, hauto, hrounds⟩))⟩
    case genprimeRounds => exact ⟨h31, .inr (.inr (.inr ⟨hop, by simp [hauto]⟩))⟩
    case genprimeAuto => exact ⟨h31, .inr (.inr (.inr ⟨hop, fun _ => hrounds⟩))⟩
    all_goals exact ⟨h31, .inl ⟨by omega, hauto, hrounds, hlen⟩⟩
  · rintro ⟨h31, ⟨hop, hauto, hrounds, hlen⟩ | ⟨hop, hlen, hauto⟩ | ⟨hop, hauto, hrounds⟩ | ⟨hop, hauto⟩⟩
    · obtain ⟨i, hi⟩ : ∃ i, carriesCommand w i ↔ carries w (opOf w) false 0 0 := by
        interval_cases opOf w
        exacts [⟨.nop, .rfl⟩, ⟨.modmul, .rfl⟩, ⟨.modexp, .rfl⟩, ⟨.modinv, .rfl⟩, ⟨.gcd, .rfl⟩, ⟨.decomp, .rfl⟩,
          ⟨.prefilt, .rfl⟩, ⟨.mrround, .rfl⟩]
      exact ⟨i, hi.2 ⟨h31, rfl, hauto, hrounds, hlen⟩⟩
    · cases ha : autoOf w with
      | false => exact ⟨.isprimeRounds (roundsOfWord w), h31, hop, ha, rfl, hlen⟩
      | true => exact ⟨.isprimeAuto, h31, hop, ha, hauto ha, hlen⟩
    · exact ⟨.randodd (lenOf w), h31, hop, hauto, hrounds, rfl⟩
    · cases ha : autoOf w with
      | false => exact ⟨.genprimeRounds (lenOf w) (roundsOfWord w), h31, hop, ha, rfl, rfl⟩
      | true => exact ⟨.genprimeAuto (lenOf w), h31, hop, ha, hauto ha, rfl⟩

/-- Settles O4: the six conditions are the negation of the legal words' list, OP being below 0x20. -/
theorem illegalWordsAreTheSixConditions : Obligations.IllegalWordsAreTheSixConditions := by
  unfold Obligations.IllegalWordsAreTheSixConditions
  intro w
  have := opOf_le w
  rw [← Bool.not_eq_true, legal_iff_fields]
  cases w.getLsbD 31 with
  | true => exact iff_of_true (fun h => nomatch h.1) (.inl rfl)
  | false =>
    cases autoOf w with
    | true => simp; omega
    | false => simp; omega

/-- Settles O5: each word, decoded. -/
theorem specWordsDecodeToTheirCommands : Obligations.SpecWordsDecodeToTheirCommands := by
  unfold Obligations.SpecWordsDecodeToTheirCommands
  decide

end Sys2Proof

/-! # The statements on the register window

R61 to R67 (the register map and the limbs), R69 and R71 (what the port carries and what a read returns), R31 and R35 to R37
(the control words). -/

namespace Sys2Proof.Machine

open Sys2Proof.Slice0

/-! ## Limbs (R62, R67) -/

/-- The limbs from `k` on are a function of the value above them. -/
theorem limbOf_congr_div {x y k j : Nat} (h : x / 2 ^ (32 * k) = y / 2 ^ (32 * k)) (hj : k ≤ j) : limbOf x j = limbOf y j := by
  have split : 32 * j = 32 * k + 32 * (j - k) := by omega
  rw [limbOf, limbOf, split, Nat.pow_add, ← Nat.div_div_eq_div_mul, ← Nat.div_div_eq_div_mul, h]

/-- A limb as a number: its digit to the base 2^32. -/
theorem limbOf_toNat (x i : Nat) : (limbOf x i).toNat = x / 2 ^ (32 * i) % 2 ^ 32 := BitVec.toNat_ofNat _ _

/-- The limbs below `k` are a function of the value below limb `k`. -/
theorem limbOf_congr_mod {x y k j : Nat} (h : x % 2 ^ (32 * k) = y % 2 ^ (32 * k)) (hj : j < k) : limbOf x j = limbOf y j := by
  have split : 32 * k = 32 * j + 32 + 32 * (k - j - 1) := by omega
  have digit (z : Nat) : z / 2 ^ (32 * j) % 2 ^ 32 = z % 2 ^ (32 * k) % 2 ^ (32 * j + 32) / 2 ^ (32 * j) := by
    rw [Nat.mod_mod_of_dvd _ (Nat.pow_dvd_pow 2 (by omega)), Nat.pow_add, Nat.mod_mul_right_div_self]
  exact BitVec.eq_of_toNat_eq (by rw [limbOf_toNat, limbOf_toNat, digit, digit, h])

/-- A written register, split at the foot of the limb. -/
theorem withLimb_factor (x i : Nat) (v : Word) :
    withLimb x i v = 2 ^ (32 * i) * (2 ^ 32 * (x / 2 ^ (32 * (i + 1))) + v.toNat) + x % 2 ^ (32 * i) := by
  rw [withLimb, Nat.mul_succ, Nat.pow_add]
  ring

/-- A write of a limb changes nothing above it. -/
theorem withLimb_div (x i : Nat) (v : Word) : withLimb x i v / 2 ^ (32 * (i + 1)) = x / 2 ^ (32 * (i + 1)) := by
  have low : v.toNat * 2 ^ (32 * i) + x % 2 ^ (32 * i) < 2 ^ (32 * (i + 1)) := calc
    v.toNat * 2 ^ (32 * i) + x % 2 ^ (32 * i) < (v.toNat + 1) * 2 ^ (32 * i) := by
      rw [Nat.add_mul, Nat.one_mul]; exact Nat.add_lt_add_left (Nat.mod_lt _ (Nat.two_pow_pos _)) _
    _ ≤ 2 ^ 32 * 2 ^ (32 * i) := Nat.mul_le_mul_right _ v.isLt
    _ = 2 ^ (32 * (i + 1)) := by rw [← Nat.pow_add, Nat.mul_succ, Nat.add_comm]
  rw [withLimb, Nat.add_assoc, Nat.mul_comm, Nat.mul_add_div (Nat.two_pow_pos _), Nat.div_eq_of_lt low, Nat.add_zero]

/-- A write of a limb puts the word at the limb's place. -/
theorem withLimb_digit (x i : Nat) (v : Word) : withLimb x i v / 2 ^ (32 * i) % 2 ^ 32 = v.toNat := by
  rw [withLimb_factor, Nat.mul_add_div (Nat.two_pow_pos _), Nat.div_eq_of_lt (Nat.mod_lt _ (Nat.two_pow_pos _)), Nat.add_zero,
    Nat.mul_add_mod, Nat.mod_eq_of_lt v.isLt]

/-- A write of a limb changes nothing below it. -/
theorem withLimb_mod (x i : Nat) (v : Word) : withLimb x i v % 2 ^ (32 * i) = x % 2 ^ (32 * i) := by
  rw [withLimb_factor, Nat.mul_add_mod, Nat.mod_mod]

/-- A written limb reads back. -/
theorem limbOf_withLimb_same (x i : Nat) (v : Word) : limbOf (withLimb x i v) i = v :=
  BitVec.eq_of_toNat_eq ((limbOf_toNat _ _).trans (withLimb_digit x i v))

/-- Every other limb keeps its value. -/
theorem limbOf_withLimb_other {i j : Nat} (x : Nat) (v : Word) (h : j ≠ i) : limbOf (withLimb x i v) j = limbOf x j := by
  rcases Nat.lt_or_gt_of_ne h with below | above
  · exact limbOf_congr_mod (withLimb_mod x i v) below
  · exact limbOf_congr_div (withLimb_div x i v) above

/-- A register of `n` limbs stays within them. -/
theorem withLimb_lt {x i n : Nat} (v : Word) (hx : x < 2 ^ (32 * n)) (hi : i < n) : withLimb x i v < 2 ^ (32 * n) := by
  have split : 2 ^ (32 * n) = 2 ^ (32 * (n - (i + 1))) * 2 ^ (32 * (i + 1)) := by rw [← Nat.pow_add]; congr 1; omega
  rw [split] at hx ⊢
  rw [← Nat.div_lt_iff_lt_mul (Nat.two_pow_pos _)] at hx ⊢
  rwa [withLimb_div]

/-- The first `n` limbs make up the value below limb `n`. -/
theorem limbs_sum (x : Nat) : ∀ n, ((List.range n).map fun i => (limbOf x i).toNat * 2 ^ (32 * i)).sum = x % 2 ^ (32 * n)
  | 0 => by simp [Nat.mod_one]
  | n + 1 => by
    rw [List.range_succ, List.map_append, List.sum_append, limbs_sum x n, List.map_singleton, List.sum_singleton,
      limbOf_toNat, Nat.mul_succ, Nat.pow_add, Nat.mod_mul, Nat.mul_comm (2 ^ (32 * n))]

/-- Settles O48: a write replaces one digit to the base 2^32, and a value is the sum of its digits. -/
theorem registersAreTheirLimbs : Obligations.RegistersAreTheirLimbs := by
  unfold Obligations.RegistersAreTheirLimbs
  refine ⟨fun x i j v => ⟨limbOf_withLimb_same x i v, limbOf_withLimb_other x v⟩, fun n x hx => ?_⟩
  rw [limbs_sum, Nat.mod_eq_of_lt hx]

/-! ## The control words (R31, R35 to R37) -/

/-- Settles O49: each word is the concatenation of its fields, and a field is taken out by dropping the ones below it. -/
theorem controlWordsHaveTheirFields : Obligations.ControlWordsHaveTheirFields := by
  unfold Obligations.ControlWordsHaveTheirFields
  refine ⟨⟨rfl, rfl, rfl, rfl⟩, fun s => ?_⟩
  unfold State.statusWord State.ctrlWord
  refine ⟨?_, ?_, ?_, ?_, ?_, ?_, ?_, ?_, ?_, ?_, ?_, rfl, rfl⟩
  · simp only [BitVec.getLsbD_append]; simp [State.statusBusy]
  · simp only [BitVec.getLsbD_append]; simp [State.statusDone]
  · simp only [BitVec.getLsbD_append]; simp [State.statusErr]
  · simp only [BitVec.getLsbD_append]; simp
  · iterate 4 rw [BitVec.extractLsb'_append_eq_of_le (by decide)]
    exact BitVec.extractLsb'_append_eq_right
  · iterate 5 rw [BitVec.extractLsb'_append_eq_of_le (by decide)]
    exact BitVec.extractLsb'_append_eq_right
  · iterate 6 rw [BitVec.extractLsb'_append_eq_of_le (by decide)]
    exact BitVec.extractLsb'_append_eq_right
  · iterate 7 rw [BitVec.extractLsb'_append_eq_of_le (by decide)]
    exact BitVec.extractLsb'_eq_self
  · simp only [BitVec.getLsbD_append]; simp
  · simp only [BitVec.getLsbD_append]; simp
  · iterate 2 rw [BitVec.extractLsb'_append_eq_of_le (by decide)]
    exact BitVec.extractLsb'_eq_self

/-! ## The register map (R61 to R64) -/

/-- The offsets at which the spec puts a slot. -/
def standsAt (s : State) (off : Nat) : Slot → Prop
  | .cmd => off = 0x000
  | .status => off = 0x004
  | .ctrl => off = 0x008
  | .cap => off = 0x00C
  | .limb x i => operandLimb s x i off ∨ resultLimb s x i off
  | .reserved => reservedOffset s off

/-- The map has each slot at its offsets. -/
theorem slotAt_of_standsAt {s : State} {off : Nat} {slot : Slot} (hp : s.parametersLegal) (h : standsAt s off slot) :
    slotAt s.nlimb off = slot := by
  cases slot with
  | cmd | status | ctrl | cap => obtain rfl : off = _ := h; rfl
  | limb x i =>
    rcases h with h | h
    · exact (slotAt_operandLimb hp h).1
    · exact (slotAt_resultLimb hp h).1
  | reserved => exact slotAt_reservedOffset h

/-- A word offset below the registers, or above S, has a slot. -/
theorem exists_standsAt_control {s : State} {off : Nat} (h4 : off % 4 = 0)
    (h : off < 0x200 ∨ (0xC00 ≤ off ∧ off ≤ 0xFFC)) : ∃ slot, standsAt s off slot := by
  rcases h with lo | ⟨lo, hi⟩
  · by_cases hc : off ≤ 0x00C
    · obtain rfl | rfl | rfl | rfl : off = 0x000 ∨ off = 0x004 ∨ off = 0x008 ∨ off = 0x00C := by omega
      exacts [⟨.cmd, rfl⟩, ⟨.status, rfl⟩, ⟨.ctrl, rfl⟩, ⟨.cap, rfl⟩]
    · exact ⟨.reserved, h4, .inl ⟨by omega, by omega⟩⟩
  · by_cases hs : off = 0xC00
    · exact ⟨.limb .S 0, .inr (.inr ⟨rfl, rfl, hs⟩)⟩
    · exact ⟨.reserved, h4, .inr (.inl ⟨by omega, hi⟩)⟩

/-- A word offset of a register's region has a slot: a limb in use, or reserved. -/
theorem exists_standsAt_region {s : State} {off : Nat} (h4 : off % 4 = 0) (lo : 0x200 ≤ off) (hi : off < 0xC00) :
    ∃ slot, standsAt s off slot := by
  by_cases unused : s.width / 32 ≤ off % 0x200 / 4
  · exact ⟨.reserved, h4, .inr (.inr ⟨lo, by omega, unused⟩)⟩
  have used : off % 0x200 / 4 < s.width / 32 := Nat.lt_of_not_le unused
  obtain hr | hr | hr | hr | hr : off / 0x200 = 1 ∨ off / 0x200 = 2 ∨ off / 0x200 = 3 ∨ off / 0x200 = 4 ∨ off / 0x200 = 5 := by
    omega
  · exact ⟨.limb .N (off % 0x200 / 4), .inl ⟨used, .inl ⟨rfl, by omega⟩⟩⟩
  · exact ⟨.limb .A (off % 0x200 / 4), .inl ⟨used, .inr (.inl ⟨rfl, by omega⟩)⟩⟩
  · exact ⟨.limb .B (off % 0x200 / 4), .inl ⟨used, .inr (.inr ⟨rfl, by omega⟩)⟩⟩
  · exact ⟨.limb .R (off % 0x200 / 4), .inr (.inl ⟨used, .inl ⟨rfl, by omega⟩⟩)⟩
  · exact ⟨.limb .T (off % 0x200 / 4), .inr (.inl ⟨used, .inr ⟨rfl, by omega⟩⟩)⟩

/-- A slot stands at a word offset exactly when the map says so: every word offset has one slot. -/
theorem slotAt_iff {s : State} {off : Nat} (hp : s.parametersLegal) (h4 : off % 4 = 0) (hi : off ≤ 0xFFC) (slot : Slot) :
    slotAt s.nlimb off = slot ↔ standsAt s off slot := by
  refine ⟨?_, slotAt_of_standsAt hp⟩
  rintro rfl
  obtain ⟨slot, h⟩ : ∃ slot, standsAt s off slot := by
    by_cases region : 0x200 ≤ off ∧ off < 0xC00
    · exact exists_standsAt_region h4 region.1 region.2
    · exact exists_standsAt_control h4 (by omega)
  rwa [slotAt_of_standsAt hp h]

/-- Settles O46: the offsets of the slots cover the window, and each determines its slot. -/
theorem everyWordOffsetHasOneRole : Obligations.EveryWordOffsetHasOneRole := by
  unfold Obligations.EveryWordOffsetHasOneRole
  intro s off hp h4 hi
  have role := slotAt_iff hp h4 hi
  exact ⟨role .cmd, role .status, role .ctrl, role .cap, fun x i => role (.limb x i), role .reserved⟩

/-! ## Host reads (R69, R71) -/

/-- A host read of a word of the window is the read of the slot that stands there. -/
theorem hostRead_onWindow {s : State} {off : Nat} (h : off % 4 = 0 ∧ off ≤ 0xFFC) :
    hostRead off s = .next (s.readSlot off (slotAt s.nlimb off)) :=
  onPort_of_word _ h.1 h.2

/-- A slot that is no word of a data register reads as its word in every phase. -/
theorem State.readValue_of_control {s : State} {slot : Slot} (h : slot.isData = false) : s.readValue slot = s.slotWord slot := by
  rw [State.readValue, State.readIsFree, h, Bool.false_and, if_neg Bool.false_ne_true]

/-- Outside BUSY every slot reads as its word. -/
theorem State.readValue_of_not_busy {s : State} (slot : Slot) (h : s.phase ≠ .busy) : s.readValue slot = s.slotWord slot := by
  rw [State.readValue, State.readIsFree, beq_false_of_ne h, Bool.and_false, if_neg Bool.false_ne_true]

/-- Settles O45: the read is that of the slot at the offset, and only a data register in BUSY reads as a free value. -/
theorem hostReadsReturnTheWordAndChangeNothing : Obligations.HostReadsReturnTheWordAndChangeNothing := by
  unfold Obligations.HostReadsReturnTheWordAndChangeNothing
  intro s off hp h4 hi
  refine ⟨_, _, hostRead_onWindow ⟨h4, hi⟩, ?_, ?_, ?_, ?_, fun h => ?_, fun x i h hb => ?_⟩
  · rintro rfl; exact State.readValue_of_control (slot := .cmd) rfl
  · rintro rfl; exact State.readValue_of_control (slot := .status) rfl
  · rintro rfl; exact State.readValue_of_control (slot := .ctrl) rfl
  · rintro rfl; exact State.readValue_of_control (slot := .cap) rfl
  · rw [(slotAt_iff hp h4 hi .reserved).2 h]; exact State.readValue_of_control rfl
  · rw [(slotAt_iff hp h4 hi (.limb x i)).2 h]; exact State.readValue_of_not_busy _ hb

/-- An access that the port cannot carry is a fault. -/
theorem onPort_off_word {off : Nat} (t : State) (h : off % 4 ≠ 0 ∨ off > 0xFFC) : ∃ f, onPort off t = .fault f := by
  unfold onPort
  by_cases h4 : off % 4 ≠ 0
  · exact ⟨_, if_pos h4⟩
  · exact ⟨_, (if_neg h4).trans (if_pos (h.resolve_left h4))⟩

/-- Settles O47: both accesses are what the port check makes of them. -/
theorem accessesOffThePortAreNoStep : Obligations.AccessesOffThePortAreNoStep := by
  unfold Obligations.AccessesOffThePortAreNoStep
  exact fun s off v => ⟨fun h => ⟨onPort_off_word _ h, onPort_off_word _ h⟩,
    fun h4 hi => ⟨⟨_, hostRead_onWindow ⟨h4, hi⟩⟩, ⟨_, hostWrite_onWindow v ⟨h4, hi⟩⟩⟩⟩

end Sys2Proof.Machine

/-! # The statements on the frame of a command

What every command leaves as it was (R27, R33, R234), which failures a body can raise (R220), how it uses the entropy port
(R79 to R82) and which state it reads (R21 to R23, R74). -/

namespace Sys2Proof.Machine

open Sys2Proof.Slice0

/-! ## How a command ends (R211) -/

/-- A command whose body reaches `done` completes. -/
theorem exec_ok {i : Instr} {s : State} {res : Result} {p : Port} (h : bodyOf i s ⟨s.entropy, []⟩ = .ok res p) :
    exec i s = .next ((s.spend p).complete res) := (exec_eq_runFrame i s).trans (runFrame_ok h)

/-- A command whose body raises enters the trap. -/
theorem exec_raise {i : Instr} {s : State} {k : Failure} {p : Port} (h : bodyOf i s ⟨s.entropy, []⟩ = .raise k p) :
    exec i s = .next ((s.spend p).trapEntry k) := (exec_eq_runFrame i s).trans (runFrame_raise h)

/-- A command whose body holds changes nothing. -/
theorem exec_wait {i : Instr} {s : State} {p : Port} (h : bodyOf i s ⟨s.entropy, []⟩ = .wait p) :
    exec i s = .next s := (exec_eq_runFrame i s).trans (runFrame_wait h)

/-! ## The frame (R27, R29, R32, R36, R37) -/

/-- Two states agree on what no command writes: the operands, CMD, the enables, OVR, CAP, and the agents' side. -/
def State.sameFrame (s t : State) : Prop :=
  t.N = s.N ∧ t.A = s.A ∧ t.B = s.B ∧ t.cmd = s.cmd ∧ t.ieDone = s.ieDone ∧ t.ieErr = s.ieErr ∧ t.ovr = s.ovr ∧
    t.cap = s.cap ∧ t.abandoned = s.abandoned ∧ t.agenda = s.agenda ∧ t.reads = s.reads

/-- No command writes them, however it ends. -/
theorem exec_sameFrame {i : Instr} {s t : State} (h : exec i s = .next t) : s.sameFrame t := by
  rcases exec_cases h with ⟨res, p, -, rfl⟩ | ⟨k, p, -, rfl⟩ | ⟨p, -, rfl⟩ <;> simp [State.sameFrame]

/-- Settles O29: the frame answers a next state, and completion, trap entry and hold all keep what no command writes. -/
theorem commandsKeepOperandsAndControl : Obligations.CommandsKeepOperandsAndControl := by
  unfold Obligations.CommandsKeepOperandsAndControl
  intro i s
  obtain ⟨t, h⟩ := exec_total i s
  exact ⟨t, h, exec_sameFrame h⟩

/-! ## The failures of a body (R220) -/

/-- The run raises no failure but those that a command's body raises: never NoCoprimeExponentFound, which is the host's (R223),
and never IllegalCommand, which comes before any body (R225). -/
def Ran.failsAsBody {α : Type} (x : Ran α) : Prop :=
  ∀ k q, x = .raise k q → k ≠ .noCoprimeExponentFound ∧ k ≠ .illegalCommand

/-- A value is no failure. -/
theorem Ran.failsAsBody_ok {α : Type} (a : α) (p : Port) : (Ran.ok a p).failsAsBody := nofun

/-- The failure of a command. -/
theorem Ran.failsAsBody_raise {α : Type} {k : Failure} (p : Port) (h : k ≠ .noCoprimeExponentFound ∧ k ≠ .illegalCommand) :
    (Ran.raise k p : Ran α).failsAsBody := by
  rintro k' q ⟨⟩
  exact h

/-- A check chooses between two runs. -/
theorem Ran.failsAsBody_ite {α : Type} {c : Prop} [Decidable c] {x y : Ran α} (hx : x.failsAsBody) (hy : y.failsAsBody) :
    (if c then x else y).failsAsBody := by
  split <;> assumption

/-- A run of a part and then the rest. -/
theorem Ran.failsAsBody_bind {α β : Type} {x : Ran α} {f : α → Port → Ran β} (hx : x.failsAsBody)
    (hf : ∀ a q, (f a q).failsAsBody) : (x.bind f).failsAsBody := by
  cases x with
  | ok a p => exact hf a p
  | raise k p => exact Ran.failsAsBody_raise p (hx k p rfl)
  | wait p => nofun

/-- A draw fails with EntropyRange alone. -/
theorem entropyDraw_failsAsBody (w lo hi : Nat) (p : Port) : (entropyDraw w lo hi p).failsAsBody := by
  rcases entropyDraw_cases w lo hi p with ⟨-, e⟩ | ⟨a, rest, -, -, e⟩ | ⟨a, rest, -, -, -, e⟩ <;> rw [e]
  · nofun
  · exact Ran.failsAsBody_raise _ (by decide)
  · exact Ran.failsAsBody_ok _ _

/-- A candidate fails with InvalidInput or with its draw. -/
theorem randomOdd_failsAsBody (w len : Nat) (p : Port) : (randomOdd w len p).failsAsBody := by
  refine Ran.failsAsBody_ite (Ran.failsAsBody_raise p (by decide)) (Ran.failsAsBody_ite (Ran.failsAsBody_raise p (by decide)) ?_)
  exact Ran.failsAsBody_bind (entropyDraw_failsAsBody _ _ _ p) fun _ _ => Ran.failsAsBody_ok _ _

/-- The rounds fail with a draw. -/
theorem runRounds_failsAsBody (w n : Nat) : ∀ k p, (runRounds w n k p).failsAsBody
  | 0, p => Ran.failsAsBody_ok _ p
  | k + 1, p => by
    refine Ran.failsAsBody_bind (entropyDraw_failsAsBody _ _ _ p) fun a q => ?_
    exact Ran.failsAsBody_ite (Ran.failsAsBody_ok _ q) (runRounds_failsAsBody w n k q)

/-- The whole test fails with InvalidInput or with its rounds. -/
theorem isProbablePrime_failsAsBody (w n : Nat) (rc : RoundCount) (p : Port) : (isProbablePrime w n rc p).failsAsBody := by
  rcases isProbablePrime_cases w n rc p with ⟨-, e⟩ | ⟨-, e⟩ | ⟨-, -, e⟩ <;> rw [e]
  · exact Ran.failsAsBody_ok _ _
  · exact Ran.failsAsBody_raise _ (by decide)
  · exact runRounds_failsAsBody _ _ _ _

/-- The search fails at its ceiling or with a trial. -/
theorem primeTrials_failsAsBody (w len : Nat) (rc : RoundCount) : ∀ j p, (primeTrials w len rc j p).failsAsBody
  | 0, p => Ran.failsAsBody_raise p (by decide)
  | j + 1, p => by
    refine Ran.failsAsBody_bind (randomOdd_failsAsBody _ _ p) fun c q => ?_
    refine Ran.failsAsBody_bind (isProbablePrime_failsAsBody _ _ _ q) fun v q' => ?_
    exact Ran.failsAsBody_ite (Ran.failsAsBody_ok _ q') (primeTrials_failsAsBody w len rc j q')

/-- GENPRIME fails on its length or with its search. -/
theorem genprimeBody_failsAsBody (len : Nat) (rc : RoundCount) (s : State) (p : Port) : (genprimeBody len rc s p).failsAsBody :=
  Ran.failsAsBody_ite (Ran.failsAsBody_raise p (by decide)) (primeTrials_failsAsBody _ _ _ _ p)

/-- ISPRIME fails with its test. -/
theorem isprimeBody_failsAsBody (rc : RoundCount) (s : State) (p : Port) : (isprimeBody rc s p).failsAsBody :=
  Ran.failsAsBody_bind (isProbablePrime_failsAsBody _ _ _ p) fun _ _ => Ran.failsAsBody_ok _ _

/-- What a body raises is a failure of a command. -/
theorem bodyOf_failsAsBody (i : Instr) (s : State) (p : Port) : (bodyOf i s p).failsAsBody := by
  cases i
  case nop | gcd | prefilt => exact Ran.failsAsBody_ok _ _
  case modmul | decomp => exact Ran.failsAsBody_ite (Ran.failsAsBody_raise p (by decide)) (Ran.failsAsBody_ok _ p)
  case modexp | modinv =>
    exact Ran.failsAsBody_ite (Ran.failsAsBody_raise p (by decide))
      (Ran.failsAsBody_ite (Ran.failsAsBody_raise p (by decide)) (Ran.failsAsBody_ok _ p))
  case mrround =>
    exact Ran.failsAsBody_ite (Ran.failsAsBody_raise p (by decide)) (Ran.failsAsBody_ite
      (Ran.failsAsBody_raise p (by decide)) (Ran.failsAsBody_ite (Ran.failsAsBody_ok _ p) (Ran.failsAsBody_ok _ p)))
  case isprimeRounds | isprimeAuto => exact isprimeBody_failsAsBody _ s p
  case randodd => exact Ran.failsAsBody_bind (randomOdd_failsAsBody _ _ p) fun _ _ => Ran.failsAsBody_ok _ _
  case genprimeRounds | genprimeAuto => exact genprimeBody_failsAsBody _ _ s p

/-- Settles O31: trap entry writes the status alone, and only a body's own failures get there. -/
theorem failedCommandsLeaveTheDataState : Obligations.FailedCommandsLeaveTheDataState := by
  unfold Obligations.FailedCommandsLeaveTheDataState
  intro i s t busy h err
  rcases exec_cases h with ⟨res, p, -, rfl⟩ | ⟨f, p, hf, rfl⟩ | ⟨p, -, rfl⟩
  · cases err
  · obtain ⟨notHost, notIllegal⟩ := bodyOf_failsAsBody i s _ f p hf
    refine ⟨rfl, rfl, rfl, rfl, rfl, rfl, rfl, f, rfl, notHost, notIllegal, ?_⟩
    rintro (rfl | rfl | rfl) <;> cases hf
  · rw [busy] at err; cases err

/-! ## The draws of a body (R79 to R82) -/

/-- A check chooses between two runs. -/
theorem Ran.moves_ite {α : Type} {w n : Nat} {P : Draw → Prop} {p : Port} {c : Prop} [Decidable c] {x y : Ran α}
    (hx : x.moves w n P p) (hy : y.moves w n P p) : (if c then x else y).moves w n P p := by
  split <;> assumption

/-- The search makes at most one draw for each candidate and one for each of its rounds. -/
theorem primeTrials_moves {w len k : Nat} {rc : RoundCount} {P : Draw → Prop} (hk : ∀ c, bitlen c = len → roundsOf rc c = k)
    (hc : 2 ≤ len → len ≤ w → ∀ v, P ⟨0, 2 ^ len - 1, v⟩)
    (hw : ∀ c, bitlen c = len → 5 ≤ c → ∀ v, P ⟨2, c - 2, v⟩) :
    ∀ j p, (primeTrials w len rc j p).moves w (j * (1 + k)) P p
  | 0, p => Ran.moves_raise _ _ _ _ _
  | j + 1, p => by
    rw [primeTrials, show (j + 1) * (1 + k) = 1 + (k + j * (1 + k)) by ring]
    refine Ran.moves_bind (randomOdd_moves hc p) fun c q ok => ?_
    obtain ⟨-, hlen, -, -⟩ := randomOdd_ok ok
    refine Ran.moves_bind (hk c hlen ▸ isProbablePrime_moves rc (hw c hlen) q) fun v q' _ => ?_
    exact Ran.moves_ite (Ran.moves_ok _ _ _ _ _) (primeTrials_moves hk hc hw j q')

/-- The declared range of a draw is not empty, and lies inside W bits if N does (R79). -/
def declares (s : State) (d : Draw) : Prop := d.lo ≤ d.hi ∧ (s.N < 2 ^ s.width → d.hi < 2 ^ s.width)

/-- GENPRIME declares ranges inside W bits. -/
theorem genprimeBody_moves {len k : Nat} {rc : RoundCount} (s : State) (p : Port)
    (hk : ∀ c, bitlen c = len → roundsOf rc c = k) :
    (genprimeBody len rc s p).moves s.width (s.kRetry * len * (1 + k)) (declares s) p := by
  unfold genprimeBody
  split
  · exact Ran.moves_raise _ _ _ _ _
  next good =>
  have fits : 2 ^ len ≤ 2 ^ s.width := Nat.pow_le_pow_right (by decide) (by omega)
  refine primeTrials_moves hk (fun _ _ v => ⟨Nat.zero_le _, fun _ => ?_⟩) (fun c hlen h5 v => ⟨?_, fun _ => ?_⟩) _ p
  · have := Nat.two_pow_pos len
    show 2 ^ len - 1 < 2 ^ s.width
    omega
  · show 2 ≤ c - 2
    omega
  · have := (bitlen_le_iff c len).1 hlen.le
    show c - 2 < 2 ^ s.width
    omega

/-- ISPRIME declares the range of its witnesses. -/
theorem isprimeBody_moves (rc : RoundCount) (s : State) (p : Port) :
    (isprimeBody rc s p).moves s.width (roundsOf rc s.N) (declares s) p := by
  refine Ran.moves_bind (n := 0) (isProbablePrime_moves rc (fun h5 v => ⟨?_, fun hN => ?_⟩) p) fun _ _ _ => Ran.moves_ok _ _ _ _ _
  · show 2 ≤ s.N - 2
    omega
  · show s.N - 2 < 2 ^ s.width
    omega

/-- RANDODD declares the range of its candidate. -/
theorem randoddBody_moves (len : Nat) (s : State) (p : Port) : (randoddBody len s p).moves s.width 1 (declares s) p := by
  refine Ran.moves_bind (n := 0) (randomOdd_moves (fun h2 hw v => ⟨Nat.zero_le _, fun _ => ?_⟩) p)
    fun _ _ _ => Ran.moves_ok _ _ _ _ _
  have := Nat.two_pow_pos len
  have : 2 ^ len ≤ 2 ^ s.width := Nat.pow_le_pow_right (by decide) hw
  show 2 ^ len - 1 < 2 ^ s.width
  omega

/-- Every body makes at most the draws of its command, each in a range as the rules have it. -/
theorem bodyOf_moves (i : Instr) (s : State) (p : Port) : (bodyOf i s p).moves s.width (mostDraws i s) (declares s) p := by
  cases i
  case isprimeRounds | isprimeAuto => exact isprimeBody_moves _ s p
  case randodd len => exact randoddBody_moves len s p
  case genprimeRounds len rounds => exact genprimeBody_moves s p fun _ _ => rfl
  case genprimeAuto len => exact genprimeBody_moves s p fun c hc => by rw [roundsOf, floorLog2, hc]
  case nop | gcd | prefilt => exact Ran.moves_ok _ _ _ _ _
  case modmul | decomp => exact Ran.moves_ite (Ran.moves_raise _ _ _ _ _) (Ran.moves_ok _ _ _ _ _)
  case modexp | modinv =>
    exact Ran.moves_ite (Ran.moves_raise _ _ _ _ _)
      (Ran.moves_ite (Ran.moves_raise _ _ _ _ _) (Ran.moves_ok _ _ _ _ _))
  case mrround =>
    exact Ran.moves_ite (Ran.moves_raise _ _ _ _ _) (Ran.moves_ite (Ran.moves_raise _ _ _ _ _)
      (Ran.moves_ite (Ran.moves_ok _ _ _ _ _) (Ran.moves_ok _ _ _ _ _)))

/-- A command that ends has consumed at most its number of answers, in order, recorded one draw for each, and then its end; one
that holds had fewer answers than its number. -/
theorem exec_draws {i : Instr} {s t : State} (h : exec i s = .next t) :
    (t = s ∧ s.entropy.length < mostDraws i s) ∨
    ∃ (taken : List Nat) (ds : List Draw) (last : PortEvent), s.entropy = taken ++ t.entropy ∧ taken.length ≤ mostDraws i s ∧
      ds.map Draw.value = taken.map (answered s) ∧ (∀ d ∈ ds, declares s d) ∧ t.history = eventsOf ds last ++ s.history ∧
      ((∃ res, last = .completed res ∧ t.phase = .done) ∨ ∃ f, last = .failed f ∧ t.phase = .err) := by
  obtain ⟨taken, ds, ⟨answers, drawn, values⟩, few, declared, held⟩ := bodyOf_moves i s ⟨s.entropy, []⟩
  rcases exec_cases h with ⟨res, p, e, rfl⟩ | ⟨f, p, e, rfl⟩ | ⟨p, e, rfl⟩ <;> rw [e] at answers drawn
  · refine .inr ⟨taken, ds, .completed res, answers, few, values, declared, ?_, .inl ⟨res, rfl, rfl⟩⟩
    simp [eventsOf, show p.drawn = ds.reverse by simpa [Ran.port] using drawn]
  · refine .inr ⟨taken, ds, .failed f, answers, few, values, declared, ?_, .inr ⟨f, rfl, rfl⟩⟩
    simp [eventsOf, show p.drawn = ds.reverse by simpa [Ran.port] using drawn]
  · obtain ⟨none, more⟩ := held p e
    refine .inl ⟨rfl, ?_⟩
    rw [show t.entropy = taken by simpa [Ran.port, none] using answers]
    exact more

/-- Settles O33: the draws of a body are those of the port, in order, and its ranges are as the rules declare them. -/
theorem commandsConsumeAnswersInOrder : Obligations.CommandsConsumeAnswersInOrder := by
  unfold Obligations.CommandsConsumeAnswersInOrder
  intro i s t fits busy h ended
  obtain ⟨hN, -⟩ := fits
  rcases exec_draws h with ⟨rfl, -⟩ | ⟨taken, ds, last, answers, -, values, declared, history, hlast⟩
  · exact absurd busy ended
  · refine ⟨taken, ds, last, answers, values, history, ?_, fun d hd => ⟨(declared d hd).1, (declared d hd).2 hN⟩⟩
    exact hlast.imp (fun ⟨res, e, _⟩ => ⟨res, e⟩) fun ⟨f, e, _⟩ => ⟨f, e⟩

/-- Settles O34: what a command consumes is at most its number of draws, which is 0 for those that draw nothing. -/
theorem commandsDrawAtMostTheirNumber : Obligations.CommandsDrawAtMostTheirNumber := by
  unfold Obligations.CommandsDrawAtMostTheirNumber
  intro i s t h
  rcases exec_draws h with ⟨rfl, -⟩ | ⟨taken, -, -, answers, few, -⟩
  · exact ⟨fun _ => rfl, by simp⟩
  · refine ⟨fun hn => ?_, by rw [answers, List.length_append]; omega⟩
    have none : mostDraws i s = 0 := by
      rcases hn with rfl | rfl | rfl | rfl | rfl | rfl | rfl | rfl <;> rfl
    rw [none, Nat.le_zero, List.length_eq_zero_iff] at few
    rw [answers, few, List.nil_append]

/-- Settles O35: only a command that had fewer answers than its number holds. -/
theorem commandsEndWhenTheirDrawsAreAnswered : Obligations.CommandsEndWhenTheirDrawsAreAnswered := by
  unfold Obligations.CommandsEndWhenTheirDrawsAreAnswered
  intro i s enough
  obtain ⟨t, h⟩ := exec_total i s
  refine ⟨t, h, ?_⟩
  rcases exec_draws h with ⟨-, few⟩ | ⟨_, _, _, -, -, -, -, -, hlast⟩
  · omega
  · exact hlast.imp (fun ⟨_, _, done⟩ => done) fun ⟨_, _, err⟩ => err

/-! ## What a command reads (R21 to R23, R74) -/

/-- An update of the state that the body does not see, and that the ends of a command carry along, may as well be made after the
command. -/
theorem exec_commutes {i : Instr} {s t : State} {f : State → State} (body : bodyOf i (f s) = bodyOf i s)
    (entropy : (f s).entropy = s.entropy)
    (completes : ∀ p res, ((f s).spend p).complete res = f ((s.spend p).complete res))
    (fails : ∀ p k, ((f s).spend p).trapEntry k = f ((s.spend p).trapEntry k)) (h : exec i s = .next t) :
    exec i (f s) = .next (f t) := by
  rw [exec_eq_runFrame, body]
  rcases exec_cases h with ⟨res, p, e, rfl⟩ | ⟨k, p, e, rfl⟩ | ⟨p, e, rfl⟩ <;> rw [← entropy] at e
  · rw [runFrame_ok e, completes]
  · rw [runFrame_raise e, fails]
  · exact runFrame_wait e

/-- Only MODMUL and MODEXP read B (R23). -/
theorem bodyOf_B {i : Instr} (s : State) (x : Nat) (h₁ : i ≠ .modmul) (h₂ : i ≠ .modexp) :
    bodyOf i { s with B := x } = bodyOf i s := by
  cases i
  case modmul => exact absurd rfl h₁
  case modexp => exact absurd rfl h₂
  all_goals rfl

/-- The commands on one number do not read A (R22). -/
theorem bodyOf_A {i : Instr} (s : State) (x : Nat) (h₁ : i ≠ .modmul) (h₂ : i ≠ .modexp) (h₃ : i ≠ .modinv) (h₄ : i ≠ .gcd)
    (h₅ : i ≠ .mrround) : bodyOf i { s with A := x } = bodyOf i s := by
  cases i
  case modmul => exact absurd rfl h₁
  case modexp => exact absurd rfl h₂
  case modinv => exact absurd rfl h₃
  case gcd => exact absurd rfl h₄
  case mrround => exact absurd rfl h₅
  all_goals rfl

/-- Settles O32: a body that does not read an operand does not see it change. -/
theorem commandsIgnoreTheOperandsTheyDoNotRead : Obligations.CommandsIgnoreTheOperandsTheyDoNotRead := by
  unfold Obligations.CommandsIgnoreTheOperandsTheyDoNotRead
  intro i s t x h
  refine ⟨fun h₁ h₂ => ?_, fun h₁ h₂ h₃ h₄ h₅ => ?_, fun hi => ?_⟩
  · exact exec_commutes (f := fun s => { s with B := x }) (bodyOf_B s x h₁ h₂) rfl (fun _ _ => rfl) (fun _ _ => rfl) h
  · exact exec_commutes (f := fun s => { s with A := x }) (bodyOf_A s x h₁ h₂ h₃ h₄ h₅) rfl (fun _ _ => rfl) (fun _ _ => rfl) h
  · have body : bodyOf i { s with N := x } = bodyOf i s := by
      rcases hi with rfl | ⟨len, rfl⟩ | ⟨len, k, rfl⟩ | ⟨len, rfl⟩ <;> rfl
    exact exec_commutes (f := fun s => { s with N := x }) body rfl (fun _ _ => rfl) (fun _ _ => rfl) h

/-- The bodies read the operands and the chip's parameters, and nothing else of the state. -/
theorem bodyOf_congr (i : Instr) {s u : State} (hN : u.N = s.N) (hA : u.A = s.A) (hB : u.B = s.B) (hcap : u.cap = s.cap) :
    bodyOf i u = bodyOf i s := by
  have onlyReads (v : State) : bodyOf i v = bodyOf i { State.resetOf v.cap with N := v.N, A := v.A, B := v.B } := by
    cases i <;> rfl
  rw [onlyReads u, onlyReads s, hN, hA, hB, hcap]

/-- Two states agree on what the running command sees and on what it leaves. -/
def State.sameRun (s u : State) : Prop :=
  u.phase = s.phase ∧ u.cmd = s.cmd ∧ u.cap = s.cap ∧ u.entropy = s.entropy ∧ u.verdict = s.verdict ∧ u.errcode = s.errcode ∧
    u.N = s.N ∧ u.A = s.A ∧ u.B = s.B ∧ u.R = s.R ∧ u.T = s.T ∧ u.S = s.S

/-- A command does the same from states that agree on them. -/
theorem exec_sameRun {i : Instr} {s u t : State} (same : s.sameRun u) (h : exec i s = .next t) :
    ∃ t', exec i u = .next t' ∧ t.sameRun t' := by
  obtain ⟨hphase, hcmd, hcap, hentropy, hverdict, herrcode, hN, hA, hB, hR, hT, hS⟩ := same
  rw [exec_eq_runFrame, bodyOf_congr i hN hA hB hcap]
  rcases exec_cases h with ⟨res, p, e, rfl⟩ | ⟨k, p, e, rfl⟩ | ⟨p, e, rfl⟩ <;> rw [← hentropy] at e
  · exact ⟨_, runFrame_ok e, by simp [State.sameRun, *]⟩
  · exact ⟨_, runFrame_raise e, by simp [State.sameRun, *]⟩
  · exact ⟨u, runFrame_wait e, by simp [State.sameRun, *]⟩

/-- In BUSY a host access changes nothing that the running command sees or leaves. -/
theorem perform_host_sameRun {e : Event} {s u : State} (busy : s.phase = .busy)
    (host : (∃ off, e = .hostRead off) ∨ ∃ off v, e = .hostWrite off v) (h : perform e s = .next u) : s.sameRun u := by
  rcases host with ⟨off, rfl⟩ | ⟨off, v, rfl⟩
  · obtain ⟨rfl, -⟩ := onPort_cases h
    simp [State.sameRun]
  · rw [perform_hostWrite h]
    rcases writeSlot_cases s off (slotAt s.nlimb off) v with e | ⟨-, e⟩ | ⟨-, e⟩ | ⟨-, hb, -⟩ | ⟨-, hp, -⟩ | ⟨_, _, -, -, hb, -⟩
    · rw [e]; simp [State.sameRun]
    · rw [e]; simp [State.sameRun]
    · rw [e]; simp [State.sameRun]
    · exact absurd busy hb
    · simp [busy] at hp
    · exact absurd busy hb

/-- Settles O59: a host access in BUSY keeps what the running command sees, so that the command does the same. -/
theorem hostTrafficDoesNotDisturbARunningCommand : Obligations.HostTrafficDoesNotDisturbARunningCommand := by
  unfold Obligations.HostTrafficDoesNotDisturbARunningCommand
  intro i s u t e busy _ host hu ht
  have same := perform_host_sameRun busy host hu
  obtain ⟨t', ht', hphase, -, -, hentropy, hverdict, herrcode, hN, hA, hB, hR, hT, hS⟩ := exec_sameRun same ht
  obtain ⟨uphase, ucmd, -⟩ := same
  exact ⟨uphase.trans busy, ucmd, t', ht', hphase, hverdict, herrcode, hR, hT, hS, hN, hA, hB, hentropy⟩

end Sys2Proof.Machine

/-! # The statements on the step

R44 and R211 (whose move it is), R27 and R29 (who writes the operands and CMD), R69 (what stops the machine) and the invariant of
Safety.lean. -/

namespace Sys2Proof.Machine

open Sys2Proof.Slice0

/-! ## One move a step (R44, R211) -/

/-- A step is the agenda's first move. -/
theorem step_of_cons {s : State} {e : Event} {rest : List Event} (h : s.agenda = e :: rest) :
    step s = perform e { s with agenda := rest } := by simp only [step, advance, h]

/-- With no move to come a step is the sequencer's move. -/
theorem step_of_nil {s : State} (h : s.agenda = []) : step s = perform .sequencer s := by simp only [step, advance, h, perform]

/-- In BUSY the sequencer runs the decoded command. -/
theorem sequencerStep_of_legal {s : State} {i : Instr} (hb : s.phase = .busy) (hd : decode s.cmd = .ok i) :
    sequencerStep s = exec i s := by simp only [sequencerStep, hb, if_true, hd]

/-- Outside BUSY the sequencer does nothing. -/
theorem sequencerStep_of_not_busy {s : State} (hb : s.phase ≠ .busy) : sequencerStep s = .next s := if_neg hb

/-- Settles O38: the agenda chooses the move, and the phase whether the sequencer has one. -/
theorem aStepRunsTheDecodedCommand : Obligations.AStepRunsTheDecodedCommand := by
  unfold Obligations.AStepRunsTheDecodedCommand
  exact fun s => ⟨fun e rest h => step_of_cons h, step_of_nil, fun i => sequencerStep_of_legal, sequencerStep_of_not_busy⟩

/-- Settles O39: the word is accepted and the sequencer's move is the next one. -/
theorem aFetchedWordRunsInTheNextStep : Obligations.AFetchedWordRunsInTheNextStep := by
  unfold Obligations.AFetchedWordRunsInTheNextStep
  intro s w i hw hd
  rw [State.withFetchWord, Nat.mod_eq_of_lt hw, step_of_cons (State.loadCommand_agenda s _)]
  exact sequencerStep_of_legal rfl hd

/-! ## Who writes CMD and the operands (R27, R29) -/

/-- The sequencer's move writes neither, nor anything else outside a command's results and status. -/
theorem sequencerStep_sameFrame {s t : State} (h : sequencerStep s = .next t) : s.sameFrame t := by
  rcases sequencerStep_cases h with ⟨-, rfl⟩ | ⟨-, -, rfl⟩ | ⟨i, -, -, hx⟩
  · simp [State.sameFrame]
  · simp [State.sameFrame]
  · exact exec_sameFrame hx

/-- Settles O52: of the host writes only acceptance writes CMD, and of the other moves only reset. -/
theorem cmdChangesOnlyOnAcceptanceOrReset : Obligations.CmdChangesOnlyOnAcceptanceOrReset := by
  unfold Obligations.CmdChangesOnlyOnAcceptanceOrReset
  intro e s t h hne
  rcases perform_cases h with ⟨off, -, -, -, rfl⟩ | ⟨off, v, rfl, -, -, rfl⟩ | ⟨-, hs⟩ | ⟨v, -, rfl⟩ | ⟨-, rfl⟩ | ⟨k, he, rfl⟩
  · exact absurd rfl hne
  · rcases writeSlot_cases s off (slotAt s.nlimb off) v with e | ⟨-, e⟩ | ⟨-, e⟩ | ⟨-, -, e⟩ | ⟨hs, hp, e⟩ | ⟨_, _, -, -, -, e⟩
    case inr.inr.inr.inr.inl =>
      rw [e, slotAt_control.1 hs]
      exact .inl ⟨rfl, hp, rfl⟩
    all_goals rw [e] at hne; simp [State.clearStatus, State.writeLimb] at hne
  · obtain ⟨-, -, -, hcmd, -⟩ := sequencerStep_sameFrame hs
    exact absurd hcmd hne
  · exact absurd rfl hne
  · exact absurd rfl hne
  · exact .inr ⟨⟨k, he⟩, rfl⟩

/-- Settles O53: of the host writes only that of an operand limb outside BUSY writes an operand, and of the other moves only
reset. -/
theorem operandsChangeOnlyByHostWritesOutsideBusy : Obligations.OperandsChangeOnlyByHostWritesOutsideBusy := by
  unfold Obligations.OperandsChangeOnlyByHostWritesOutsideBusy
  intro e s t h hne
  rcases perform_cases h with ⟨off, -, -, -, rfl⟩ | ⟨off, v, rfl, -, -, rfl⟩ | ⟨-, hs⟩ | ⟨v, -, rfl⟩ | ⟨-, rfl⟩ | ⟨k, he, rfl⟩
  · simp at hne
  · rcases writeSlot_cases s off (slotAt s.nlimb off) v with e | ⟨-, e⟩ | ⟨-, e⟩ | ⟨-, -, e⟩ | ⟨-, -, e⟩ | ⟨x, i, hs, hx, hb, e⟩
    case inr.inr.inr.inr.inr =>
      rw [e]
      exact .inl ⟨⟨off, v, rfl, slotAt_writable hs hx⟩, hb, State.setReg_phase _ _ _⟩
    all_goals rw [e] at hne; simp [State.clearStatus] at hne
  · obtain ⟨hN, hA, hB, -⟩ := sequencerStep_sameFrame hs
    simp [hN, hA, hB] at hne
  · simp at hne
  · simp at hne
  · exact .inr ⟨k, he⟩

/-! ## What stops the machine (R69) -/

/-- The sequencer's move answers a next state. -/
theorem sequencerStep_total (s : State) : ∃ t, sequencerStep s = .next t := by
  by_cases hb : s.phase = .busy
  · cases hd : decode s.cmd with
    | ok i => rw [sequencerStep_of_legal hb hd]; exact exec_total i s
    | error reason => exact ⟨_, sequencerStep_of_illegal hb (by simp [legal, hd, Except.toBool])⟩
  · exact ⟨s, sequencerStep_of_not_busy hb⟩

/-- A move that answers no next state is a host access that the port cannot carry. -/
theorem perform_total_or_off_port (e : Event) (s : State) :
    (∃ t, perform e s = .next t) ∨
    ∃ f off, perform e s = .fault f ∧ (e = .hostRead off ∨ ∃ v, e = .hostWrite off v) ∧ (off % 4 ≠ 0 ∨ off > 0xFFC) := by
  have port (off : Nat) (t : State) :
      (∃ u, onPort off t = .next u) ∨ ((off % 4 ≠ 0 ∨ off > 0xFFC) ∧ ∃ f, onPort off t = .fault f) := by
    by_cases h : off % 4 ≠ 0 ∨ off > 0xFFC
    · exact .inr ⟨h, onPort_off_word t h⟩
    · exact .inl ⟨t, onPort_of_word t (by omega) (by omega)⟩
  cases e with
  | hostRead off => exact (port off _).imp id fun ⟨h, f, hf⟩ => ⟨f, off, hf, .inl rfl, h⟩
  | hostWrite off v => exact (port off _).imp id fun ⟨h, f, hf⟩ => ⟨f, off, hf, .inr ⟨v, rfl⟩, h⟩
  | sequencer => exact .inl (sequencerStep_total s)
  | answer v => exact .inl ⟨_, rfl⟩
  | withdraw => exact .inl ⟨_, rfl⟩
  | rst k => exact .inl ⟨_, rfl⟩

/-- Settles O56: every move but a host access answers a next state. -/
theorem onlyAccessesOffThePortStopTheMachine : Obligations.OnlyAccessesOffThePortStopTheMachine := by
  unfold Obligations.OnlyAccessesOffThePortStopTheMachine
  intro s
  cases ha : s.agenda with
  | nil => rw [step_of_nil ha]; exact .inl (sequencerStep_total s)
  | cons e rest =>
    rw [step_of_cons ha]
    refine (perform_total_or_off_port e { s with agenda := rest }).imp id ?_
    rintro ⟨f, off, hf, rfl | ⟨v, rfl⟩, h⟩
    · exact ⟨f, off, rest, hf, .inl rfl, h⟩
    · exact ⟨f, off, rest, hf, .inr ⟨v, rfl⟩, h⟩

/-! ## The invariant at reset -/

/-- The reset values satisfy the invariant on every chip with legal parameters. -/
theorem State.resetOf_wf {cap : Word} (h : (State.resetOf cap).parametersLegal) : (State.resetOf cap).wf := by
  obtain ⟨-, width, -⟩ := id h
  replace width : 0 < (State.resetOf cap).width := Nat.lt_of_lt_of_le (by decide) width
  have zero := Nat.two_pow_pos (State.resetOf cap).width
  exact ⟨h, ⟨zero, zero, zero, zero, zero, width⟩, ⟨fun _ => rfl, nofun, fun _ => rfl⟩, nofun, nofun⟩

/-- Settles O57: the reset values fit every legal width, and the reference parameters are legal. -/
theorem resetSatisfiesTheInvariant : Obligations.ResetSatisfiesTheInvariant := by
  unfold Obligations.ResetSatisfiesTheInvariant
  exact ⟨State.resetOf_wf (by decide), fun cap => State.resetOf_wf⟩

/-! ## The results of a command fit their registers (R26) -/

/-- The values that a body leaves fit registers of `w` bits; S is below `w`. -/
def Result.fits (w : Nat) (res : Result) : Prop :=
  (∀ v, res.r = some v → v < 2 ^ w) ∧ ∀ t e, res.ts = some (t, e) → t < 2 ^ w ∧ e < w

/-- A result that assigns R and no other register fits if its value does. -/
theorem Result.fits_r {w v : Nat} (verdict : Verdict) (h : v < 2 ^ w) : Result.fits w { r := some v, verdict := verdict } :=
  ⟨fun _ e => Option.some.inj e ▸ h, nofun⟩

/-- A result that assigns no register fits. -/
theorem Result.fits_verdict (w : Nat) (verdict : Verdict) : Result.fits w { verdict := verdict } := ⟨nofun, nofun⟩

/-- A gcd is no larger than the larger operand. -/
theorem gcd_lt {a b m : Nat} (ha : a < m) (hb : b < m) : Nat.gcd a b < m := by
  rcases Nat.eq_zero_or_pos a with rfl | pos
  · rwa [Nat.gcd_zero_left]
  · exact (Nat.gcd_le_left b pos).trans_lt ha

/-- The decomposition of a number of `w` bits fits. -/
theorem decomp_fits {n w : Nat} (h2 : 2 ≤ n) (hn : n < 2 ^ w) : (decomp n).2 < 2 ^ w ∧ (decomp n).1 < w := by
  obtain ⟨hd, hodd⟩ := decomp_spec h2
  have t : (decomp n).2 ≤ n - 1 := hd ▸ Nat.le_mul_of_pos_left _ (Nat.two_pow_pos _)
  have e : 2 ^ (decomp n).1 ≤ n - 1 := hd ▸ Nat.le_mul_of_pos_right _ (by omega)
  exact ⟨by omega, (Nat.pow_lt_pow_iff_right (a := 2) (by decide)).1 (by omega)⟩

/-- A value of at most `w` bits fits. -/
theorem lt_of_bitlen {v len w : Nat} (hv : bitlen v = len) (h : len ≤ w) : v < 2 ^ w := (bitlen_le_iff v w).1 (hv ▸ h)

/-- RANDODD's candidate fits. -/
theorem randoddBody_fits {len : Nat} {s : State} {p q : Port} {res : Result} (h : randoddBody len s p = .ok res q) :
    res.fits s.width := by
  obtain ⟨c, p', hc, h⟩ := Ran.bind_eq_ok.1 h
  cases h
  have good : len ≤ s.width := by
    by_contra bad
    rw [randomOdd_bad_length p (.inr (Nat.lt_of_not_le bad))] at hc
    cases hc
  obtain ⟨-, hlen, -⟩ := randomOdd_ok hc
  exact Result.fits_r _ (lt_of_bitlen hlen good)

/-- GENPRIME's candidate fits. -/
theorem genprimeBody_fits {len : Nat} {rc : RoundCount} {s : State} {p q : Port} {res : Result}
    (h : genprimeBody len rc s p = .ok res q) : res.fits s.width := by
  obtain ⟨c, ws, rfl, hlen, -⟩ := primeTrials_shape (genprimeBody_ok h)
  have good : len ≤ s.width := by
    by_contra bad
    rw [genprimeBody, if_pos (.inr (Nat.lt_of_not_le bad))] at h
    cases h
  exact Result.fits_r _ (lt_of_bitlen hlen good)

/-- Where the operands fit their registers, so do the results. -/
theorem bodyOf_fits {i : Instr} {s : State} {p q : Port} {res : Result} (fits : s.registersFit)
    (h : bodyOf i s p = .ok res q) : res.fits s.width := by
  obtain ⟨hN, hA, -⟩ := fits
  cases i <;> simp only [bodyOf] at h
  case nop | prefilt => cases h; exact Result.fits_verdict _ _
  case gcd =>
    rw [gcdBody_eq] at h
    cases h
    exact Result.fits_r _ (gcd_lt hN hA)
  case modmul =>
    unfold modmulBody at h
    split_ifs at h with zero
    cases h
    exact Result.fits_r _ ((Nat.mod_lt _ (Nat.pos_of_ne_zero zero)).trans hN)
  case modexp =>
    unfold modexpBody at h
    split_ifs at h with zero
    cases h
    exact Result.fits_r _ (modexp_eq _ _ _ ▸ (Nat.mod_lt _ (Nat.pos_of_ne_zero zero)).trans hN)
  case modinv =>
    unfold modinvBody at h
    split_ifs at h with small
    cases h
    exact Result.fits_r _ ((modInverse_lt s.A (Nat.le_of_not_lt small)).trans hN)
  case decomp =>
    unfold decompBody at h
    split_ifs at h with small
    cases h
    refine ⟨nofun, fun t e ht => ?_⟩
    cases ht
    exact decomp_fits (Nat.le_of_not_lt small) hN
  case mrround =>
    obtain ⟨v, -, rfl⟩ := bodyOf_result (i := .mrround) h
    exact Result.fits_verdict _ v
  case isprimeRounds | isprimeAuto =>
    obtain ⟨v, -, rfl⟩ := isprimeBody_result h
    exact Result.fits_verdict _ v
  case randodd => exact randoddBody_fits h
  case genprimeRounds | genprimeAuto => exact genprimeBody_fits h

/-! ## The invariant after each move -/

/-- The registers still fit after a completion with results that fit. -/
theorem State.complete_registersFit {s : State} {p : Port} {res : Result} (fits : s.registersFit) (h : res.fits s.width) :
    ((s.spend p).complete res).registersFit := by
  obtain ⟨hN, hA, hB, hR, hT, hS⟩ := fits
  obtain ⟨r, ts, verdict⟩ := res
  obtain ⟨hr, hts⟩ := h
  refine ⟨hN, hA, hB, ?_, ?_, ?_⟩
  · cases r with
    | none => exact hR
    | some v => exact hr v rfl
  · cases ts with
    | none => exact hT
    | some ts => exact (hts ts.1 ts.2 rfl).1
  · cases ts with
    | none => exact hS
    | some ts => exact (hts ts.1 ts.2 rfl).2

/-- A command that completes keeps the invariant: CMD is legal, and ERRCODE is 0 as in BUSY. -/
theorem State.complete_wf {s : State} {p : Port} {res : Result} (h : s.wf) (busy : s.phase = .busy) (fits : res.fits s.width)
    (hl : legal s.cmd = true) : ((s.spend p).complete res).wf := by
  obtain ⟨legalParameters, registers, ⟨noError, -, -⟩, -⟩ := h
  exact ⟨legalParameters, State.complete_registersFit registers fits,
    ⟨fun _ => noError (by rw [busy]; nofun), nofun, by simp⟩, fun _ => hl, nofun⟩

/-- A command that fails keeps the invariant, if its failure is one that it can raise on its word. -/
theorem State.trapEntry_wf {s : State} {p : Port} {k : Failure} (h : s.wf) (notHost : k ≠ .noCoprimeExponentFound)
    (hl : k = .illegalCommand ↔ legal s.cmd = false) : ((s.spend p).trapEntry k).wf := by
  obtain ⟨legalParameters, registers, -, -⟩ := h
  refine ⟨legalParameters, registers, ⟨nofun, fun _ => ?_, fun _ => rfl⟩, nofun, fun _ => ?_⟩
  · cases k
    case noCoprimeExponentFound => exact absurd rfl notHost
    all_goals rw [State.trapEntry_errcode]; decide
  · refine Iff.trans ?_ hl
    rw [State.trapEntry_errcode]
    cases k <;> decide

/-- The sequencer's move keeps the invariant. -/
theorem sequencerStep_wf {s t : State} (h : s.wf) (hs : sequencerStep s = .next t) : t.wf := by
  rcases sequencerStep_cases hs with ⟨-, rfl⟩ | ⟨-, hl, rfl⟩ | ⟨i, busy, hd, hx⟩
  · exact h
  · exact State.trapEntry_wf (p := ⟨s.entropy, []⟩) h nofun ⟨fun _ => hl, fun _ => rfl⟩
  have hl : legal s.cmd = true := (legal_iff_carries _).2 ⟨i, carries_of_decode hd⟩
  obtain ⟨-, registers, -⟩ := id h
  rcases exec_cases hx with ⟨res, p, e, rfl⟩ | ⟨k, p, e, rfl⟩ | ⟨p, -, rfl⟩
  · exact State.complete_wf h busy (bodyOf_fits registers e) hl
  · obtain ⟨notHost, notIllegal⟩ := bodyOf_failsAsBody i s _ k p e
    exact State.trapEntry_wf h notHost ⟨fun e => absurd e notIllegal, fun e => by rw [hl] at e; cases e⟩
  · exact h

/-- In IDLE the invariant asks for legal parameters, registers that fit, and ERRCODE 0. -/
theorem State.wf_of_idle {s : State} (idle : s.phase = .idle) (noError : s.errcode = 0) (legalParameters : s.parametersLegal)
    (registers : s.registersFit) : s.wf := by
  refine ⟨legalParameters, registers, ⟨fun _ => noError, ?_, ?_⟩, ?_, ?_⟩ <;> rw [idle] <;> nofun

/-- A STATUS write keeps the invariant: where it leaves ERR it clears ERRCODE, and in DONE that is 0 already (R237, R238). -/
theorem State.clearStatus_wf {s : State} (v : Word) (h : s.wf) : (s.clearStatus v).wf := by
  have acknowledge : (s.acknowledge v).wf := by
    unfold State.acknowledge
    split
    · obtain ⟨legalParameters, registers, -⟩ := h
      exact State.wf_of_idle rfl rfl legalParameters registers
    · exact h
  have dismiss : ((s.acknowledge v).dismiss v).wf := by
    generalize s.acknowledge v = u at acknowledge
    unfold State.dismiss
    split
    · next done =>
      obtain ⟨legalParameters, registers, ⟨noError, -, -⟩, -⟩ := acknowledge
      exact State.wf_of_idle rfl (noError (by rw [done.2]; nofun)) legalParameters registers
    · exact acknowledge
  unfold State.clearStatus State.clearOvr
  split <;> exact dismiss

/-- A limb of an operand keeps the register within its width. -/
theorem State.writeLimb_wf {s : State} {x : DataReg} {i : Nat} (v : Word) (h : s.wf) (hx : x.hostWritable = true)
    (hi : i < s.nlimb) : (s.writeLimb x i v).wf := by
  obtain ⟨legalParameters, ⟨hN, hA, hB, hR, hT, hS⟩, status⟩ := h
  have width : 32 * s.nlimb = s.width := by
    obtain ⟨h32, -⟩ := legalParameters
    unfold State.nlimb
    omega
  have fits {y : Nat} (hy : y < 2 ^ s.width) : withLimb y i v < 2 ^ s.width := by
    rw [← width] at hy ⊢
    exact withLimb_lt v hy hi
  cases x
  case N => exact ⟨legalParameters, ⟨fits hN, hA, hB, hR, hT, hS⟩, status⟩
  case A => exact ⟨legalParameters, ⟨hN, fits hA, hB, hR, hT, hS⟩, status⟩
  case B => exact ⟨legalParameters, ⟨hN, hA, fits hB, hR, hT, hS⟩, status⟩
  all_goals cases hx

/-- A host write inside the window keeps the invariant. -/
theorem State.writeSlot_wf {s : State} (off : Nat) (v : Word) (h : s.wf) : (s.writeSlot off (slotAt s.nlimb off) v).wf := by
  rcases writeSlot_cases s off (slotAt s.nlimb off) v with e | ⟨-, e⟩ | ⟨-, e⟩ | ⟨-, -, e⟩ | ⟨-, hp, e⟩ | ⟨x, i, hs, hx, -, e⟩ <;>
    rw [e]
  · exact h
  · exact h
  · exact h
  · exact State.clearStatus_wf v h
  · obtain ⟨legalParameters, registers, ⟨noError, -, -⟩, -⟩ := h
    exact ⟨legalParameters, registers, ⟨fun _ => noError (by rcases hp with hp | hp <;> rw [hp] <;> nofun), nofun, fun _ => rfl⟩,
      nofun, nofun⟩
  · refine State.writeLimb_wf v h hx ((slotAt_limb hs).resolve_right ?_)
    rintro ⟨rfl, -⟩
    cases hx

/-- Reset leaves the invariant's reset values. -/
theorem State.assertRst_wf {s : State} (k : Nat) (h : s.wf) : (s.assertRst k).wf :=
  State.resetOf_wf (cap := s.cap) h.1

/-- Every move of every agent keeps the invariant. -/
theorem perform_wf {e : Event} {s t : State} (h : s.wf) (he : perform e s = .next t) : t.wf := by
  rcases perform_cases he with ⟨off, -, -, -, rfl⟩ | ⟨off, v, -, -, -, rfl⟩ | ⟨-, hs⟩ | ⟨v, -, rfl⟩ | ⟨-, rfl⟩ | ⟨k, -, rfl⟩
  · exact h
  · exact State.writeSlot_wf off v h
  · exact sequencerStep_wf h hs
  · exact h
  · exact h
  · exact State.assertRst_wf k h

/-- No move writes CAP (R37). -/
theorem perform_cap {e : Event} {s t : State} (h : perform e s = .next t) : t.cap = s.cap := by
  rcases perform_cases h with ⟨off, -, -, -, rfl⟩ | ⟨off, v, -, -, -, rfl⟩ | ⟨-, hs⟩ | ⟨v, -, rfl⟩ | ⟨-, rfl⟩ | ⟨k, -, rfl⟩
  · rfl
  · rcases writeSlot_cases s off (slotAt s.nlimb off) v with e | ⟨-, e⟩ | ⟨-, e⟩ | ⟨-, -, e⟩ | ⟨-, -, e⟩ | ⟨x, i, -, -, -, e⟩ <;>
      rw [e] <;> simp [State.clearStatus, State.writeLimb]
  · obtain ⟨-, -, -, -, -, -, -, hcap, -⟩ := sequencerStep_sameFrame hs
    exact hcap
  · rfl
  · rfl
  · rfl

/-- Settles O58: a step is a move, and taking it off the agenda changes nothing that the invariant speaks of. -/
theorem everyStepKeepsTheInvariant : Obligations.EveryStepKeepsTheInvariant := by
  unfold Obligations.EveryStepKeepsTheInvariant
  intro s t h hs
  cases ha : s.agenda with
  | nil =>
    rw [step_of_nil ha] at hs
    exact ⟨perform_wf h hs, perform_cap hs⟩
  | cons e rest =>
    rw [step_of_cons ha] at hs
    exact ⟨perform_wf (s := { s with agenda := rest }) h hs, perform_cap (s := { s with agenda := rest }) hs⟩

end Sys2Proof.Machine

/-! # The statements on the primality test

R180 (extended Euclid), R134 (one round), R137 and R138 (ISPRIME), R139 (primes). -/

namespace Sys2Proof.Machine

open Sys2Proof.Slice0

/-- Settles O11: the invariant of the loop at its end. -/
theorem egcdReturnsABezoutCoefficient : Obligations.EgcdReturnsABezoutCoefficient := by
  unfold Obligations.EgcdReturnsABezoutCoefficient
  intro p e
  obtain ⟨g, x, bezout⟩ := egcd_spec p e
  exact ⟨g, x, bezout.symm⟩

/-! ## One round (R134) -/

/-- The first power of a round and its squares, as powers of the witness. -/
theorem pow_mod_pow_two_pow (a t n j : Nat) : (a ^ t % n) ^ 2 ^ j % n = a ^ (2 ^ j * t) % n := by
  rw [← Nat.pow_mod, ← pow_mul, mul_comm]

/-- A round passes exactly when the witness is a strong-pseudoprime witness. -/
theorem mrRound_pass_iff {n a e t : Nat} (h5 : 5 ≤ n) (odd : n % 2 = 1) (hn : n - 1 = 2 ^ e * t) (ht : t % 2 = 1) :
    mrRound n a = .pass ↔ (a ^ t % n = 1 ∨ ∃ j, j < e ∧ a ^ (2 ^ j * t) % n = n - 1) := by
  obtain ⟨e, rfl⟩ : ∃ f, e = f + 1 := by
    refine ⟨e - 1, (Nat.sub_one_add_one ?_).symm⟩
    rintro rfl
    omega
  have later : (∃ j, j < e + 1 ∧ a ^ (2 ^ j * t) % n = n - 1) ↔
      a ^ t % n = n - 1 ∨ ∃ j, j < e ∧ (a ^ t % n) ^ 2 ^ (j + 1) % n = n - 1 := by
    simp only [pow_mod_pow_two_pow]
    rw [Nat.exists_lt_succ_left, pow_zero, one_mul]
  rw [later, mrRound, decomp_eq (by omega) hn ht, modexp_eq, ← squarings_pass_iff n (by omega)]
  simp only [Nat.add_sub_cancel]
  split
  · next early => exact ⟨fun _ => early.imp id .inl, fun _ => rfl⟩
  · next late =>
    rw [not_or] at late
    simp [late]

/-- Settles O15: the loop's early exits are the first terms of the sequence, and its hard stop leaves none behind. -/
theorem roundPassesExactlyOnStrongPseudoprimeWitnesses : Obligations.RoundPassesExactlyOnStrongPseudoprimeWitnesses := by
  unfold Obligations.RoundPassesExactlyOnStrongPseudoprimeWitnesses
  exact fun n a e t h5 odd hn ht => mrRound_pass_iff h5 odd hn ht

/-! ## The rounds (R137) -/

/-- Both forms of ISPRIME run one body, with the number of rounds that the form names (R103). -/
theorem bodyOf_runsIsprime {i : Instr} {k : Nat} {s : State} (h : runsIsprime i s.N k) :
    ∃ rc, bodyOf i s = isprimeBody rc s ∧ roundsOf rc s.N = k := by
  rcases h with rfl | ⟨rfl, rfl⟩
  · exact ⟨.given k, rfl, rfl⟩
  · exact ⟨.auto, rfl, rfl⟩

/-- Rounds that pass go on to the rest of the rounds, each with its draw recorded. -/
theorem runRounds_allPass {s : State} {n : Nat} (k : Nat) (rest : List Nat) : ∀ (ws : List Nat) (drawn : List Draw),
    allPass s n ws → runRounds s.width n (ws.length + k) ⟨ws ++ rest, drawn⟩ =
      runRounds s.width n k ⟨rest, (drawsOf s 2 (n - 2) ws).reverse ++ drawn⟩
  | [], drawn, _ => by rw [List.length_nil, Nat.zero_add]; rfl
  | a :: ws, drawn, h => by
    obtain ⟨⟨lo, hi, pass⟩, h⟩ := List.forall_mem_cons.1 h
    rw [List.length_cons, Nat.add_right_comm, List.cons_append, runRounds_pass drawn lo hi pass, runRounds_allPass k rest ws _ h]
    simp [drawsOf, answered]

/-- Where the fast rejection decides, ISPRIME leaves its verdict without a draw. -/
theorem isprimeBody_decided {rc : RoundCount} {s : State} (p : Port) (h : prefilter s.N ≠ .undecided) :
    isprimeBody rc s p = .ok { verdict := prefilter s.N } p := by
  rw [isprimeBody, isProbablePrime, if_pos h, Ran.bind_ok]

/-- On 3 the range of witnesses is empty. -/
theorem isprimeBody_three {rc : RoundCount} {s : State} (p : Port) (h : s.N = 3) :
    isprimeBody rc s p = .raise .invalidInput p := by
  rw [isprimeBody, isProbablePrime, h]
  rfl

/-- On an odd number from 5 on ISPRIME runs the rounds. -/
theorem isprimeBody_rounds {rc : RoundCount} {s : State} (p : Port) (h5 : 5 ≤ s.N) (odd : s.N % 2 = 1) :
    isprimeBody rc s p = (runRounds s.width s.N (roundsOf rc s.N) p).bind fun v p' => .ok { verdict := v } p' := by
  rw [isprimeBody, isProbablePrime, prefilter_of_odd (by omega) odd, if_neg (not_not.2 rfl), if_neg (by omega)]

/-- Settles O16: the fast rejection decides 0, 1, 2 and the even numbers, and on 3 no witness is left. -/
theorem isprimeDecidesWithoutDrawing : Obligations.IsprimeDecidesWithoutDrawing := by
  unfold Obligations.IsprimeDecidesWithoutDrawing
  intro i k s hi
  obtain ⟨rc, body, -⟩ := bodyOf_runsIsprime hi
  have decided {v : Verdict} (hv : prefilter s.N = v) (h : v ≠ .undecided) : exec i s = .next (s.complete { verdict := v }) :=
    exec_of_ok (by rw [body, isprimeBody_decided _ (hv ▸ h), hv])
  refine ⟨fun h => ?_, fun h => ?_, fun h even => ?_, fun h => ?_⟩
  · exact decided (prefilter_of_lt_two h) nofun
  · exact decided (h ▸ (by decide : prefilter 2 = .prime)) nofun
  · exact decided (prefilter_of_even h even) nofun
  · exact exec_of_raise (by rw [body, isprimeBody_three _ h])

/-- ISPRIME after witnesses that all pass goes on with the rest of its rounds. -/
theorem bodyOf_isprime_after {i : Instr} {k : Nat} {s : State} {ws rest : List Nat} (hi : runsIsprime i s.N k) (h5 : 5 ≤ s.N)
    (odd : s.N % 2 = 1) (hent : s.entropy = ws ++ rest) (hk : ws.length ≤ k) (pass : allPass s s.N ws) :
    bodyOf i s ⟨s.entropy, []⟩ = (runRounds s.width s.N (k - ws.length) ⟨rest, (drawsOf s 2 (s.N - 2) ws).reverse⟩).bind
      fun v p' => .ok { verdict := v } p' := by
  obtain ⟨rc, body, rounds⟩ := bodyOf_runsIsprime hi
  have passed := runRounds_allPass (k - ws.length) rest ws [] pass
  rw [Nat.add_sub_cancel' hk, List.append_nil] at passed
  rw [body, isprimeBody_rounds _ h5 odd, rounds, hent, passed]

/-- The draws of one more answer, newest first. -/
theorem drawsOf_concat_reverse (s : State) (lo hi : Nat) (ws : List Nat) (a : Nat) :
    (drawsOf s lo hi (ws ++ [a])).reverse = ⟨lo, hi, answered s a⟩ :: (drawsOf s lo hi ws).reverse := by
  simp [drawsOf]

/-- Settles O17: after `k` passing witnesses no round is left. -/
theorem isprimeReportsPrimeWhenEveryRoundPasses : Obligations.IsprimeReportsPrimeWhenEveryRoundPasses := by
  unfold Obligations.IsprimeReportsPrimeWhenEveryRoundPasses
  intro i k s ws rest hi h5 odd hent hk pass
  have body := bodyOf_isprime_after hi h5 odd hent hk.le pass
  rw [hk, Nat.sub_self] at body
  exact exec_ok body

/-- Settles O18: after passing witnesses a round is left, and a composite one ends the test. -/
theorem isprimeStopsAtTheFirstCompositeRound : Obligations.IsprimeStopsAtTheFirstCompositeRound := by
  unfold Obligations.IsprimeStopsAtTheFirstCompositeRound
  intro i k s ws a rest hi h5 odd hent hk pass lo hi' composite
  have body := bodyOf_isprime_after hi h5 odd hent hk.le pass
  rw [← Nat.sub_one_add_one (Nat.sub_ne_zero_of_lt hk), runRounds_composite _ lo hi' composite, Ran.bind_ok] at body
  rw [eventsOf, drawsOf_concat_reverse]
  exact exec_ok body

/-- Settles O19: after passing witnesses a round is left, and an answer out of its range is a failure. -/
theorem isprimeFailsOnAnOutOfRangeWitness : Obligations.IsprimeFailsOnAnOutOfRangeWitness := by
  unfold Obligations.IsprimeFailsOnAnOutOfRangeWitness
  intro i k s ws a rest hi h5 odd hent hk pass out
  have body := bodyOf_isprime_after hi h5 odd hent hk.le pass
  rw [← Nat.sub_one_add_one (Nat.sub_ne_zero_of_lt hk), runRounds_out_of_range _ out, Ran.bind_raise] at body
  rw [eventsOf, drawsOf_concat_reverse]
  exact exec_raise body

/-! ## Primes (R139) -/

/-- In a field a `2^e`-th root of 1 is 1 or has -1 among its squares. -/
theorem eq_one_or_pow_eq_neg_one {F : Type} [Field F] {y : F} : ∀ {e : Nat}, y ^ 2 ^ e = 1 → y = 1 ∨ ∃ j, j < e ∧ y ^ 2 ^ j = -1
  | 0, h => .inl (by simpa using h)
  | e + 1, h => by
    rw [pow_succ, pow_mul, sq_eq_one_iff] at h
    rcases h with h | h
    · exact (eq_one_or_pow_eq_neg_one h).imp id fun ⟨j, hj, e⟩ => ⟨j, by omega, e⟩
    · exact .inr ⟨e, by omega, h⟩

/-- A residue of a power, read in the integers modulo `n`. -/
theorem pow_mod_eq_iff {n a m r : Nat} (hr : r < n) : a ^ m % n = r ↔ (a : ZMod n) ^ m = r := by
  rw [← Nat.cast_pow, ZMod.natCast_eq_natCast_iff', Nat.mod_eq_of_lt hr]

/-- Every round with a witness in range passes on a prime: in the field of the residues 1 has no square root but 1 and -1. -/
theorem mrRound_pass_of_prime {n a : Nat} (prime : Nat.Prime n) (h5 : 5 ≤ n) (h2 : 2 ≤ a) (ha : a ≤ n - 2) :
    mrRound n a = .pass := by
  have field := Fact.mk prime
  obtain ⟨hd, hodd⟩ := decomp_spec (n := n) (by omega)
  have odd : n % 2 = 1 := (Nat.Prime.eq_two_or_odd prime).resolve_left (by omega)
  have unit : (a : ZMod n) ≠ 0 := fun h => by
    have := Nat.le_of_dvd (by omega) ((ZMod.natCast_eq_zero_iff a n).1 h)
    omega
  have fermat := ZMod.pow_card_sub_one_eq_one unit
  have minus_one : ((n - 1 : Nat) : ZMod n) = -1 := by
    rw [Nat.cast_sub (by omega), ZMod.natCast_self, zero_sub, Nat.cast_one]
  rw [hd, mul_comm, pow_mul] at fermat
  rw [mrRound_pass_iff h5 odd hd hodd]
  refine (eq_one_or_pow_eq_neg_one fermat).imp (fun h => ?_) fun ⟨j, hj, h⟩ => ⟨j, hj, ?_⟩
  · rw [pow_mod_eq_iff (by omega), h, Nat.cast_one]
  · rw [pow_mod_eq_iff (by omega), minus_one, mul_comm, pow_mul, h]

/-- Settles O20: every round passes, so that the test completes with PRIME. -/
theorem isprimeReportsEveryPrimeAsPrime : Obligations.IsprimeReportsEveryPrimeAsPrime := by
  unfold Obligations.IsprimeReportsEveryPrimeAsPrime
  intro i k s hi prime h5 enough inRange
  have odd : s.N % 2 = 1 := (Nat.Prime.eq_two_or_odd prime).resolve_left (by omega)
  have pass : allPass s s.N (s.entropy.take k) := fun a ha =>
    ⟨(inRange a ha).1, (inRange a ha).2, mrRound_pass_of_prime prime h5 (inRange a ha).1 (inRange a ha).2⟩
  exact ⟨_, isprimeReportsPrimeWhenEveryRoundPasses i k s _ _ hi h5 odd (List.take_append_drop k _).symm
    (List.length_take_of_le enough) pass, rfl, rfl, rfl⟩

end Sys2Proof.Machine

/-! # The statements on the prime search

R160 (the candidate), R170 and R171 (GENPRIME), R236 (the bounds on its draws). -/

namespace Sys2Proof.Machine

open Sys2Proof.Slice0

/-! ## The candidate (R160) -/

/-- A candidate lies strictly above its top bit, which is even. -/
theorem two_pow_lt_candidateOf {len : Nat} (v : Nat) (h2 : 2 ≤ len) : 2 ^ (len - 1) < candidateOf len v := by
  refine Nat.lt_of_le_of_ne (Nat.right_le_or.trans Nat.left_le_or) fun e => ?_
  have odd := candidateOf_odd len v
  have even : 2 ^ (len - 1) % 2 = 0 := by
    rw [Nat.pow_mod, Nat.mod_self, Nat.zero_pow (by omega)]
  omega

/-- Between the two forced bits a candidate keeps the drawn bits. -/
theorem testBit_candidateOf {len j : Nat} (v : Nat) (h1 : 1 ≤ j) (hj : j ≤ len - 2) :
    (candidateOf len v).testBit j = v.testBit j := by
  have low : Nat.testBit 1 j = false := Nat.testBit_lt_two_pow (Nat.one_lt_two_pow (by omega))
  rw [candidateOf, Nat.testBit_or, Nat.testBit_or, Nat.testBit_two_pow_of_ne (by omega), low, Bool.or_false, Bool.or_false]

/-- Settles O22: the top and the lowest bit are forced, and nothing else. -/
theorem candidatesHaveExactLengthAndAreOdd : Obligations.CandidatesHaveExactLengthAndAreOdd := by
  unfold Obligations.CandidatesHaveExactLengthAndAreOdd
  intro len v h2 hv
  have hlen := bitlen_candidateOf h2 hv
  exact ⟨hlen, candidateOf_odd len v, two_pow_lt_candidateOf v h2, Nat.le_sub_one_of_lt (lt_of_bitlen hlen le_rfl),
    fun j h1 hj => testBit_candidateOf v h1 hj⟩

/-- The candidate of an answer is odd. -/
theorem candidate_odd (s : State) (len v : Nat) : candidate s len v % 2 = 1 := candidateOf_odd len (answered s v)

/-- The candidate of an answer in range has its length. -/
theorem bitlen_candidate {s : State} {len v : Nat} (h2 : 2 ≤ len) (hv : answered s v < 2 ^ len) :
    bitlen (candidate s len v) = len := bitlen_candidateOf h2 hv

/-- A candidate of three or more bits is at least 5. -/
theorem five_le_candidate {s : State} {len : Nat} (v : Nat) (h3 : 3 ≤ len) : 5 ≤ candidate s len v := by
  have top : 2 ^ 2 ≤ 2 ^ (len - 1) := Nat.pow_le_pow_right (by decide) (by omega)
  have : 2 ^ (len - 1) < candidate s len v := two_pow_lt_candidateOf (answered s v) (by omega)
  omega

/-! ## The trials (R171) -/

section

variable {s : State} {len k : Nat} {rc : RoundCount}

/-- A trial whose candidate has a witness range goes on, after witnesses that all pass, with the rest of its rounds. -/
theorem primeTrials_after {v j : Nat} {ws rest : List Nat} (drawn : List Draw) (h2 : 2 ≤ len) (hw : len ≤ s.width)
    (rounds : ∀ c, bitlen c = len → roundsOf rc c = k) (hv : answered s v < 2 ^ len) (h5 : 5 ≤ candidate s len v)
    (hk : ws.length ≤ k) (pass : allPass s (candidate s len v) ws) :
    primeTrials s.width len rc (j + 1) ⟨v :: (ws ++ rest), drawn⟩ =
      (runRounds s.width (candidate s len v) (k - ws.length) ⟨rest, (trialDraws s len (v :: ws)).reverse ++ drawn⟩).bind
        fun verdict p => if verdict = .prime then .ok { r := some (candidate s len v), verdict := .prime } p
          else primeTrials s.width len rc j p := by
  have passed := runRounds_allPass (k - ws.length) rest ws (⟨0, 2 ^ len - 1, answered s v⟩ :: drawn) pass
  rw [Nat.add_sub_cancel' hk] at passed
  have odd := candidate_odd s len v
  rw [primeTrials, randomOdd_in_range drawn h2 hw (Nat.le_sub_one_of_lt hv), Ran.bind_ok, isProbablePrime,
    prefilter_of_odd (by omega) odd, if_neg (not_not.2 rfl), if_neg (by omega), rounds _ (bitlen_candidate h2 hv), passed]
  simp [trialDraws]

/-- The draws of a trial with one more witness, newest first. -/
theorem trialDraws_concat_reverse (s : State) (len v : Nat) (ws : List Nat) (a : Nat) :
    (trialDraws s len (v :: (ws ++ [a]))).reverse =
      ⟨2, candidate s len v - 2, answered s a⟩ :: (trialDraws s len (v :: ws)).reverse := by
  simp [trialDraws, drawsOf]

/-- A rejected trial goes on to the next. -/
theorem primeTrials_rejected {j : Nat} {block : List Nat} (rest : List Nat) (drawn : List Draw) (h2 : 2 ≤ len)
    (hw : len ≤ s.width) (rounds : ∀ c, bitlen c = len → roundsOf rc c = k) (h : rejectedTrial s len k block) :
    primeTrials s.width len rc (j + 1) ⟨block ++ rest, drawn⟩ =
      primeTrials s.width len rc j ⟨rest, (trialDraws s len block).reverse ++ drawn⟩ := by
  obtain ⟨v, ws, a, rfl, hv, hk, pass, lo, hi, composite⟩ := h
  have odd := candidate_odd s len v
  rw [List.cons_append, List.append_assoc, primeTrials_after drawn h2 hw rounds hv (by omega) hk.le pass,
    ← Nat.sub_one_add_one (Nat.sub_ne_zero_of_lt hk), List.singleton_append, runRounds_composite _ lo hi composite, Ran.bind_ok,
    if_neg nofun, trialDraws_concat_reverse]
  rfl

/-- Rejected trials go on to the rest of the trials. -/
theorem primeTrials_allRejected {j : Nat} (rest : List Nat) (h2 : 2 ≤ len) (hw : len ≤ s.width)
    (rounds : ∀ c, bitlen c = len → roundsOf rc c = k) : ∀ (blocks : List (List Nat)) (drawn : List Draw),
    (∀ block ∈ blocks, rejectedTrial s len k block) →
    primeTrials s.width len rc (blocks.length + j) ⟨blocks.flatten ++ rest, drawn⟩ =
      primeTrials s.width len rc j ⟨rest, (blocks.flatMap (trialDraws s len)).reverse ++ drawn⟩
  | [], drawn, _ => by rw [List.length_nil, Nat.zero_add]; rfl
  | block :: blocks, drawn, h => by
    obtain ⟨hblock, h⟩ := List.forall_mem_cons.1 h
    rw [List.length_cons, Nat.add_right_comm, List.flatten_cons, List.append_assoc,
      primeTrials_rejected _ drawn h2 hw rounds hblock, primeTrials_allRejected rest h2 hw rounds blocks _ h,
      List.flatMap_cons, List.reverse_append, List.append_assoc]

end

/-! ## The command -/

/-- A legal length goes to the search. -/
theorem genprimeBody_good_length {len : Nat} {rc : RoundCount} {s : State} (p : Port) (h2 : 2 ≤ len) (hw : len ≤ s.width) :
    genprimeBody len rc s p = primeTrials s.width len rc (s.kRetry * len) p := if_neg (by omega)

/-- GENPRIME after rejected trials goes on with the rest of its trials. -/
theorem bodyOf_genprime_after {i : Instr} {len k : Nat} {s : State} {blocks : List (List Nat)} {rest : List Nat}
    (hi : runsGenprime i len k) (h2 : 2 ≤ len) (hw : len ≤ s.width) (few : blocks.length ≤ s.kRetry * len)
    (rejected : ∀ block ∈ blocks, rejectedTrial s len k block) (hent : s.entropy = blocks.flatten ++ rest) :
    ∃ rc, (∀ c, bitlen c = len → roundsOf rc c = k) ∧ bodyOf i s ⟨s.entropy, []⟩ =
      primeTrials s.width len rc (s.kRetry * len - blocks.length) ⟨rest, (blocks.flatMap (trialDraws s len)).reverse⟩ := by
  obtain ⟨rc, body, rounds⟩ := bodyOf_runsGenprime s hi
  have passed := primeTrials_allRejected (j := s.kRetry * len - blocks.length) rest h2 hw rounds blocks [] rejected
  rw [Nat.add_sub_cancel' few, List.append_nil] at passed
  exact ⟨rc, rounds, by rw [body, genprimeBody_good_length _ h2 hw, hent, passed]⟩

/-- Settles O23: the length is checked before the search, and the one candidate of two bits is 3, whose witness range is empty. -/
theorem genprimeRejectsBadLengths : Obligations.GenprimeRejectsBadLengths := by
  unfold Obligations.GenprimeRejectsBadLengths
  intro i len k s hi
  obtain ⟨rc, body, -⟩ := bodyOf_runsGenprime s hi
  refine ⟨fun bad => exec_of_raise (by rw [body]; exact if_pos bad), ?_⟩
  rintro v rest rfl hw retries hent hv
  have three : candidate s 2 v = 3 := by
    have odd := candidate_odd s 2 v
    have lo : 2 < candidate s 2 v := two_pow_lt_candidateOf (answered s v) le_rfl
    have hi : candidate s 2 v < 4 := lt_of_bitlen (bitlen_candidate le_rfl (Nat.lt_succ_of_le hv)) le_rfl
    omega
  refine exec_raise (k := .invalidInput) (p := ⟨rest, [⟨0, 3, answered s v⟩]⟩) ?_
  rw [body, genprimeBody_good_length _ le_rfl hw, hent, ← Nat.sub_one_add_one (by omega : s.kRetry * 2 ≠ 0), primeTrials,
    randomOdd_in_range [] le_rfl hw hv, Ran.bind_ok, three]
  rfl

/-- Settles O24: after rejected trials one is left, and the accepted one ends the search with its candidate. -/
theorem genprimeReturnsTheFirstAcceptedCandidate : Obligations.GenprimeReturnsTheFirstAcceptedCandidate := by
  unfold Obligations.GenprimeReturnsTheFirstAcceptedCandidate
  rintro i len k s blocks v ws rest hi h3 hw few rejected ⟨_, _, ⟨⟩, hv, hk, pass⟩ hent
  have h2 : 2 ≤ len := by omega
  rw [List.append_assoc] at hent
  obtain ⟨rc, rounds, body⟩ := bodyOf_genprime_after hi h2 hw few.le rejected hent
  rw [← Nat.sub_one_add_one (Nat.sub_ne_zero_of_lt few), List.cons_append,
    primeTrials_after _ h2 hw rounds hv (five_le_candidate v h3) hk.le pass, hk, Nat.sub_self] at body
  rw [List.flatMap_append, List.flatMap_singleton, eventsOf, List.reverse_append]
  exact exec_ok body

/-- Settles O25: after its ceiling of rejected trials the search has none left. -/
theorem genprimeIsExhaustedAfterItsCeiling : Obligations.GenprimeIsExhaustedAfterItsCeiling := by
  unfold Obligations.GenprimeIsExhaustedAfterItsCeiling
  intro i len k s blocks rest hi h3 hw all rejected hent
  obtain ⟨rc, -, body⟩ := bodyOf_genprime_after hi (by omega) hw all.le rejected hent
  rw [all, Nat.sub_self] at body
  exact exec_raise body

/-- Settles O26: after rejected trials one is left, and an answer out of the range of its candidate or of a witness ends it. -/
theorem genprimeFailsOnAnOutOfRangeAnswer : Obligations.GenprimeFailsOnAnOutOfRangeAnswer := by
  unfold Obligations.GenprimeFailsOnAnOutOfRangeAnswer
  intro i len k s blocks v rest hi h2 hw few rejected
  have more := Nat.sub_one_add_one (Nat.sub_ne_zero_of_lt few)
  refine ⟨fun hent out => ?_, fun ws a h3 hent hv hk pass out => ?_⟩
  · obtain ⟨rc, -, body⟩ := bodyOf_genprime_after hi h2 hw few.le rejected hent
    have pos := Nat.two_pow_pos len
    rw [← more, primeTrials, randomOdd_out_of_range _ h2 hw (by omega), Ran.bind_raise] at body
    rw [List.flatMap_append, List.flatMap_singleton, eventsOf, List.reverse_append]
    exact exec_raise body
  · rw [List.append_assoc, List.cons_append, List.append_assoc] at hent
    obtain ⟨rc, rounds, body⟩ := bodyOf_genprime_after hi h2 hw few.le rejected hent
    rw [← more, primeTrials_after _ h2 hw rounds hv (five_le_candidate v h3) hk.le pass,
      ← Nat.sub_one_add_one (Nat.sub_ne_zero_of_lt hk), List.singleton_append, runRounds_out_of_range _ out, Ran.bind_raise] at body
    rw [List.flatMap_append, List.flatMap_singleton, eventsOf, List.reverse_append, trialDraws_concat_reverse]
    exact exec_raise body

/-! ## The bounds of an exhausted search (R236) -/

/-- A run of two parts fails exactly when the first part does, or the second after it. -/
theorem Ran.bind_eq_raise {α β : Type} {x : Ran α} {f : α → Port → Ran β} {k : Failure} {q : Port} :
    x.bind f = .raise k q ↔ x = .raise k q ∨ ∃ a p, x = .ok a p ∧ f a p = .raise k q := by
  cases x with
  | ok a p =>
    refine ⟨fun h => .inr ⟨a, p, rfl, h⟩, ?_⟩
    rintro (h | ⟨a, p, ⟨⟩, h⟩)
    · cases h
    · exact h
  | raise k p => simp
  | wait p => simp

/-- A candidate's draw is not where a search is exhausted. -/
theorem randomOdd_ne_exhausted {w len : Nat} {p q : Port} : randomOdd w len p ≠ .raise .primeGenerationExhausted q := by
  rcases randomOdd_cases w len p with ⟨-, e⟩ | ⟨-, -, ⟨-, e⟩ | ⟨_, _, -, -, e⟩ | ⟨_, _, -, -, e⟩⟩ <;> rw [e] <;> nofun

/-- A round is not where a search is exhausted. -/
theorem runRounds_ne_exhausted {w n : Nat} {q : Port} :
    ∀ {k : Nat} {p : Port}, runRounds w n k p ≠ .raise .primeGenerationExhausted q
  | 0, _ => nofun
  | k + 1, p => fun h => by
    rcases Ran.bind_eq_raise.1 h with h | ⟨a, p', -, h⟩
    · rcases entropyDraw_cases w 2 (n - 2) p with ⟨-, e⟩ | ⟨_, _, -, -, e⟩ | ⟨_, _, -, -, -, e⟩ <;> rw [e] at h <;> cases h
    · split at h
      · cases h
      · exact runRounds_ne_exhausted h

/-- The test of a candidate is not where a search is exhausted. -/
theorem isProbablePrime_ne_exhausted {w n : Nat} {rc : RoundCount} {p q : Port} :
    isProbablePrime w n rc p ≠ .raise .primeGenerationExhausted q := by
  rcases isProbablePrime_cases w n rc p with ⟨-, e⟩ | ⟨-, e⟩ | ⟨-, -, e⟩ <;> rw [e]
  · nofun
  · nofun
  · exact runRounds_ne_exhausted

/-- Rounds leave a suffix of the answers they were given. -/
theorem runRounds_answers_suffix {w n k : Nat} {v : Verdict} {p q : Port} (h : runRounds w n k p = .ok v q) :
    q.answers <:+ p.answers := by
  have moves := runRounds_moves (w := w) (n := n) (P := fun _ => True) (fun _ => trivial) k p
  rw [h] at moves
  exact moves.answers_suffix

/-- Rounds that end otherwise than with PRIME are at least one, and took at least one answer. -/
theorem runRounds_not_prime {w n k : Nat} {v : Verdict} {p q : Port} (h : runRounds w n k p = .ok v q) (hv : v ≠ .prime) :
    1 ≤ k ∧ q.answers.length + 1 ≤ p.answers.length := by
  cases k with
  | zero => cases h; exact absurd rfl hv
  | succ k =>
    rw [runRounds] at h
    rcases entropyDraw_cases w 2 (n - 2) p with ⟨-, e⟩ | ⟨_, _, -, -, e⟩ | ⟨a, rest, ha, -, -, e⟩ <;> rw [e] at h
    · cases h
    · cases h
    · have left : q.answers.length ≤ rest.length := by
        rw [Ran.bind_ok] at h
        split at h
        · cases h; exact le_rfl
        · exact (runRounds_answers_suffix h).length_le
      rw [ha, List.length_cons]
      omega

/-- A draw that gives a candidate takes one answer. -/
theorem randomOdd_takes {w len c : Nat} {p q : Port} (h : randomOdd w len p = .ok c q) :
    p.answers.length = q.answers.length + 1 := by
  rcases randomOdd_cases w len p with ⟨-, e⟩ | ⟨-, -, ⟨-, e⟩ | ⟨_, _, -, -, e⟩ | ⟨a, rest, ha, -, e⟩⟩ <;> rw [e] at h <;> cases h
  rw [ha, List.length_cons]

/-- A rejected candidate had at least one round, and took at least one witness. -/
theorem isProbablePrime_not_prime {w n : Nat} {rc : RoundCount} {v : Verdict} {p q : Port} (h3 : 3 ≤ n) (odd : n % 2 = 1)
    (h : isProbablePrime w n rc p = .ok v q) (hv : v ≠ .prime) :
    1 ≤ roundsOf rc n ∧ q.answers.length + 1 ≤ p.answers.length := by
  rcases isProbablePrime_cases w n rc p with ⟨hn, -⟩ | ⟨-, e⟩ | ⟨-, -, e⟩
  · exact absurd (prefilter_of_odd h3 odd) hn
  · rw [e] at h; cases h
  · exact runRounds_not_prime (e ▸ h) hv

/-- A search that is exhausted took at least two answers for each of its trials, and a trial had at least one round. -/
theorem primeTrials_exhausted {w len k : Nat} {rc : RoundCount} {q : Port} (rounds : ∀ c, bitlen c = len → roundsOf rc c = k) :
    ∀ {j : Nat} {p : Port}, primeTrials w len rc j p = .raise .primeGenerationExhausted q →
      (1 ≤ j → 1 ≤ k) ∧ 2 * j + q.answers.length ≤ p.answers.length
  | 0, p, h => by cases h; simp
  | j + 1, p, h => by
    rcases Ran.bind_eq_raise.1 h with h | ⟨c, p₁, hc, h⟩
    · exact absurd h randomOdd_ne_exhausted
    rcases Ran.bind_eq_raise.1 h with h | ⟨v, p₂, hv, h⟩
    · exact absurd h isProbablePrime_ne_exhausted
    split at h
    · cases h
    next notPrime =>
    obtain ⟨h2, hlen, odd, -⟩ := randomOdd_ok hc
    have taken := randomOdd_takes hc
    have two : 2 ≤ c := two_le_of_bitlen (by omega)
    obtain ⟨some, witness⟩ := isProbablePrime_not_prime (by omega) odd hv notPrime
    obtain ⟨-, rest⟩ := primeTrials_exhausted rounds h
    exact ⟨fun _ => rounds c hlen ▸ some, by omega⟩

/-- The most draws that GENPRIME can make. -/
theorem mostDraws_genprime {i : Instr} {len k : Nat} (s : State) (h : runsGenprime i len k) :
    mostDraws i s = s.kRetry * len * (1 + k) := by
  rcases h with rfl | ⟨rfl, rfl⟩ <;> rfl

/-- Settles O28: each rejected trial takes its candidate and at least one witness, and no more than all of them. -/
theorem exhaustedGenprimeDrawsWithinItsBounds : Obligations.ExhaustedGenprimeDrawsWithinItsBounds := by
  unfold Obligations.ExhaustedGenprimeDrawsWithinItsBounds
  intro i len k s t hi retries busy h err code
  have most := (commandsDrawAtMostTheirNumber i s t h).2
  rw [mostDraws_genprime s hi] at most
  rcases exec_cases h with ⟨res, p, -, rfl⟩ | ⟨f, p, hf, rfl⟩ | ⟨p, -, rfl⟩
  · cases err
  · obtain rfl : f = .primeGenerationExhausted := by
      cases f
      case primeGenerationExhausted => rfl
      all_goals cases code
    obtain ⟨rc, body, rounds⟩ := bodyOf_runsGenprime s hi
    rw [body, genprimeBody] at hf
    split at hf
    · cases hf
    next good =>
    obtain ⟨some, least⟩ := primeTrials_exhausted rounds hf
    have trials : 1 ≤ s.kRetry * len := Nat.mul_pos retries (by omega)
    exact ⟨some trials, Nat.le_sub_of_add_le least, most⟩
  · rw [busy] at err; cases err

end Sys2Proof.Machine

/-! # The statements on the hold and on reset

R81 (a draw without an answer holds the block, and an answer lifts the hold), R45, R260 and R261 (reset). -/

namespace Sys2Proof.Machine

open Sys2Proof.Slice0

/-! ## The hold (R81) -/

/-- A draw that has no answer holds. -/
theorem entropyDraw_dry (w lo hi : Nat) (drawn : List Draw) : entropyDraw w lo hi ⟨[], drawn⟩ = .wait ⟨[], drawn⟩ := rfl

/-- The rounds hold at a witness that has no answer. -/
theorem runRounds_dry (w n k : Nat) (drawn : List Draw) : runRounds w n (k + 1) ⟨[], drawn⟩ = .wait ⟨[], drawn⟩ := rfl

/-- A candidate holds where its draw has no answer. -/
theorem randomOdd_dry {w len : Nat} (drawn : List Draw) (h2 : 2 ≤ len) (hw : len ≤ w) :
    randomOdd w len ⟨[], drawn⟩ = .wait ⟨[], drawn⟩ := by
  rw [randomOdd_good_length _ h2 hw, entropyDraw_dry, Ran.bind_wait]

/-- The search holds at a candidate that has no answer. -/
theorem primeTrials_dry {w len : Nat} (rc : RoundCount) (j : Nat) (drawn : List Draw) (h2 : 2 ≤ len) (hw : len ≤ w) :
    primeTrials w len rc (j + 1) ⟨[], drawn⟩ = .wait ⟨[], drawn⟩ := by
  rw [primeTrials, randomOdd_dry drawn h2 hw, Ran.bind_wait]

/-- Where the script runs dry the body holds. -/
theorem bodyOf_dry {i : Instr} {s : State} (h : runsDry i s) : ∃ p, bodyOf i s ⟨s.entropy, []⟩ = .wait p := by
  rcases h with ⟨k, hi, h5, odd, hk, pass⟩ | ⟨len, rfl, h2, hw, hent⟩ | ⟨len, k, blocks, hi, h2, hw, few, rejected, hent⟩
  · have body := bodyOf_isprime_after (rest := []) hi h5 odd (List.append_nil _).symm hk.le pass
    rw [← Nat.sub_one_add_one (Nat.sub_ne_zero_of_lt hk), runRounds_dry, Ran.bind_wait] at body
    exact ⟨_, body⟩
  · refine ⟨⟨[], []⟩, ?_⟩
    rw [hent, bodyOf, randoddBody, randomOdd_dry [] h2 hw, Ran.bind_wait]
  have more := Nat.sub_one_add_one (Nat.sub_ne_zero_of_lt few)
  rcases hent with hent | ⟨v, ws, h3, hent, hv, hk, pass⟩
  · obtain ⟨rc, -, body⟩ := bodyOf_genprime_after (rest := []) hi h2 hw few.le rejected (hent.trans (List.append_nil _).symm)
    rw [← more, primeTrials_dry rc _ _ h2 hw] at body
    exact ⟨_, body⟩
  · obtain ⟨rc, rounds, body⟩ := bodyOf_genprime_after hi h2 hw few.le rejected hent
    have after := primeTrials_after (j := s.kRetry * len - blocks.length - 1) (rest := [])
      (blocks.flatMap (trialDraws s len)).reverse h2 hw rounds hv (five_le_candidate v h3) hk.le pass
    rw [List.append_nil, ← Nat.sub_one_add_one (Nat.sub_ne_zero_of_lt hk), runRounds_dry, Ran.bind_wait] at after
    rw [← more, after] at body
    exact ⟨_, body⟩

/-- A command that leaves BUSY as it was has changed nothing. -/
theorem eq_of_exec_busy {i : Instr} {s t : State} (h : exec i s = .next t) (busy : t.phase = .busy) : t = s := by
  rcases exec_cases h with ⟨res, p, -, rfl⟩ | ⟨k, p, -, rfl⟩ | ⟨p, -, rfl⟩
  · cases busy
  · cases busy
  · rfl

/-- Settles O36: the body holds at its dry draw, and only a hold leaves the phase BUSY. -/
theorem anUnansweredDrawHoldsTheBlock : Obligations.AnUnansweredDrawHoldsTheBlock := by
  unfold Obligations.AnUnansweredDrawHoldsTheBlock
  refine fun i s => ⟨fun dry => ?_, fun t hb hd h busy => ?_⟩
  · obtain ⟨p, body⟩ := bodyOf_dry dry
    exact exec_wait body
  · obtain rfl := eq_of_exec_busy h busy
    exact ⟨rfl, fun ha => (step_of_nil ha).trans ((sequencerStep_of_legal hb hd).trans h)⟩

/-- Settles O37: RANDODD holds, its answer joins the script, and RANDODD then completes. -/
theorem anAnswerLiftsTheHold : Obligations.AnAnswerLiftsTheHold := by
  unfold Obligations.AnAnswerLiftsTheHold
  intro len v s hb hd h2 hw hent hab ha inRange
  refine ⟨?_, ?_, ?_⟩
  · have dry : runsDry (.randodd len) { s with agenda := [.answer v] } := .inr (.inl ⟨len, rfl, h2, hw, hent⟩)
    rw [step_of_cons ha]
    exact (sequencerStep_of_legal (s := { s with agenda := [.answer v] }) hb hd).trans
      ((anUnansweredDrawHoldsTheBlock _ _).1 dry)
  · rw [step_of_cons rfl]
    simp [perform, State.answer, hab, hent]
  · obtain ⟨-, drawn⟩ := randoddLeavesTheForcedCandidate len { s with agenda := [], entropy := [v] }
    obtain ⟨completes, -⟩ := drawn v [] h2 hw rfl
    have runs := sequencerStep_of_legal (s := { s with agenda := [], entropy := [v] }) hb hd
    exact ⟨_, (step_of_nil rfl).trans (runs.trans (completes inRange)), rfl, rfl⟩

/-! ## Reset (R45, R260, R261) -/

/-- The draws that a reset in BUSY leaves made are those of the run on the first `k` answers. -/
theorem abandonedDraws_of_busy {s : State} {i : Instr} (k : Nat) (hb : s.phase = .busy) (hd : decode s.cmd = .ok i) :
    abandonedDraws k s = (bodyOf i s ⟨s.entropy.take k, []⟩).port.drawn := by
  simp only [abandonedDraws, abandonedRun_of_busy k hb hd]

/-- Outside BUSY, or with an illegal word, a reset leaves no draw made. -/
theorem abandonedDraws_of_idle {s : State} (k : Nat) (h : s.phase ≠ .busy ∨ legal s.cmd = false) : abandonedDraws k s = [] := by
  simp only [abandonedDraws, abandonedRun_of_idle k h]

/-- Outside BUSY, or with an illegal word, no draw is outstanding. -/
theorem drawOutstanding_of_idle {s : State} (k : Nat) (h : s.phase ≠ .busy ∨ legal s.cmd = false) :
    drawOutstanding k s = false := by
  simp only [drawOutstanding, abandonedRun_of_idle k h]

/-- The run that a reset abandons has consumed one answer for each of its draws, from the front; where it holds it has consumed
all of the first `k`. -/
theorem abandonedRun_taken (i : Instr) (s : State) (k : Nat) :
    ∃ taken, s.entropy = taken ++ ((bodyOf i s ⟨s.entropy.take k, []⟩).port.answers ++ s.entropy.drop k) ∧ taken.length ≤ k ∧
      taken.length = (bodyOf i s ⟨s.entropy.take k, []⟩).port.drawn.length ∧
      (bodyOf i s ⟨s.entropy.take k, []⟩).port.drawn.reverse.map Draw.value = taken.map (answered s) ∧
      ∀ q, bodyOf i s ⟨s.entropy.take k, []⟩ = .wait q → q.answers = [] := by
  obtain ⟨taken, ds, ⟨answers, drawn, values⟩, -, -, held⟩ := bodyOf_moves i s ⟨s.entropy.take k, []⟩
  replace answers : s.entropy.take k = taken ++ (bodyOf i s ⟨s.entropy.take k, []⟩).port.answers := answers
  replace drawn : (bodyOf i s ⟨s.entropy.take k, []⟩).port.drawn = ds.reverse := drawn.trans (List.append_nil _)
  refine ⟨taken, ?_, ?_, ?_, ?_, fun q e => (held q e).1⟩
  · rw [← List.append_assoc, ← answers, List.take_append_drop]
  · exact (List.prefix_append _ _ |>.length_le).trans (answers ▸ List.length_take_le k _)
  · rw [drawn, List.length_reverse, ← List.length_map (f := Draw.value), values, List.length_map]
  · rw [drawn, List.reverse_reverse]
    exact values

/-- The answers of the abandoned draws are the first ones of the script, and at most `k`. -/
theorem abandonedDraws_answers (k : Nat) (s : State) : (abandonedDraws k s).length ≤ k ∧
    (abandonedDraws k s).reverse.map Draw.value = (s.entropy.take (abandonedDraws k s).length).map (answered s) := by
  by_cases idle : s.phase ≠ .busy ∨ legal s.cmd = false
  · simp [abandonedDraws_of_idle k idle]
  obtain ⟨hb, hl⟩ := not_or.1 idle
  rw [not_not] at hb
  rw [Bool.not_eq_false, legal_iff_carries] at hl
  obtain ⟨i, hi⟩ := hl
  obtain ⟨taken, answers, few, count, values, -⟩ := abandonedRun_taken i s k
  have front : s.entropy.take taken.length = taken := by rw [answers, List.take_left]
  rw [abandonedDraws_of_busy k hb (decode_of_carries hi), ← count, front]
  exact ⟨few, values⟩

/-- Reset leaves the draws that `exec` makes on the first `k` answers: where it holds there, one more draw is abandoned, and where
it ends, the record has all of its events but the end. -/
theorem assertRst_of_busy {s u : State} {i : Instr} {k : Nat} (hb : s.phase = .busy) (hd : decode s.cmd = .ok i)
    (h : exec i { s with entropy := s.entropy.take k } = .next u) :
    (u.phase = .busy → (s.assertRst k).entropy = s.entropy.drop k ∧ (s.assertRst k).abandoned = s.abandoned + 1) ∧
    (u.phase ≠ .busy → (s.assertRst k).entropy = u.entropy ++ s.entropy.drop k ∧ (s.assertRst k).abandoned = s.abandoned ∧
      ∃ last, u.history = last :: (s.assertRst k).history) := by
  obtain ⟨taken, answers, -, count, -, held⟩ := abandonedRun_taken i s k
  have left : s.entropy.drop taken.length = (bodyOf i s ⟨s.entropy.take k, []⟩).port.answers ++ s.entropy.drop k := by
    conv_lhs => rw [answers]
    exact List.drop_left
  rw [State.assertRst_entropy, State.assertRst_abandoned, State.assertRst_history, abandonedDraws_of_busy k hb hd, ← count, left]
  simp only [drawOutstanding, abandonedRun_of_busy k hb hd]
  have run := bodyOf_entropy i s (s.entropy.take k)
  rcases exec_cases h with ⟨res, p, e, rfl⟩ | ⟨f, p, e, rfl⟩ | ⟨p, e, rfl⟩ <;> rw [run] at e <;> rw [e]
  · exact ⟨nofun, fun _ => ⟨rfl, rfl, _, rfl⟩⟩
  · exact ⟨nofun, fun _ => ⟨rfl, rfl, _, rfl⟩⟩
  · refine ⟨fun _ => ⟨?_, rfl⟩, fun ended => absurd hb ended⟩
    rw [Ran.port, held p e, List.nil_append]

/-- After reset STATUS reads 0. -/
theorem State.assertRst_statusWord (s : State) (k : Nat) : (s.assertRst k).statusWord = 0 := by
  simp only [State.statusWord, State.statusBusy, State.statusDone, State.statusErr, State.assertRst_phase,
    State.assertRst_errcode, State.assertRst_verdict, State.assertRst_ovr]
  decide

/-- After reset CTRL reads 0. -/
theorem State.assertRst_ctrlWord (s : State) (k : Nat) : (s.assertRst k).ctrlWord = 0 := by
  simp only [State.ctrlWord, State.assertRst_ieErr, State.assertRst_ieDone]
  decide

/-- Settles O50: the reset values by the update that reset is, the abandoned draws by the run on the first `k` answers, and the
answers by their count. -/
theorem resetLeavesTheResetState : Obligations.ResetLeavesTheResetState := by
  unfold Obligations.ResetLeavesTheResetState
  refine ⟨fun s k => ⟨s.assertRst k, rfl, rfl, rfl, rfl, rfl, rfl, rfl, rfl, rfl, rfl, rfl, rfl, rfl, rfl, rfl, ?_⟩,
    fun s v => ?_⟩
  · obtain ⟨few, values⟩ := abandonedDraws_answers k s
    refine ⟨State.assertRst_statusWord s k, State.assertRst_ctrlWord s k, ?_, rfl, rfl, rfl, rfl, few, values,
      fun idle => ⟨abandonedDraws_of_idle k idle, ?_⟩,
      fun i u hb hd h => assertRst_of_busy hb hd h⟩
    · exact State.irq_eq_false (.inl rfl)
    · rw [State.assertRst_abandoned, drawOutstanding_of_idle k idle]
      rfl
  · refine ⟨fun pending => ?_, fun none => ?_⟩
    · simp [perform, State.answer, Nat.ne_of_gt pending]
    · simp [perform, State.answer, none]

end Sys2Proof.Machine
